-- ==== Sys2Proof/Word.lean ====
section
/-! DEFINITION. The word types of QRCORE: bus words, codeword bytes, bus addresses (spec 00_scope.md R9, 20_memory.md R61, R62). -/

namespace Sys2Proof

/-- A bus word: 32 bits, numbered 31 down to 0 (R9). -/
abbrev Word := BitVec 32

/-- A codeword, and an element of GF(256) (R16, R140). -/
abbrev Byte := BitVec 8

/-- A bus address: 14 bits, counting bytes from the block's base (R61). -/
abbrev Addr := BitVec 14

end Sys2Proof
end

