-- ==== Sys2Proof/Syntax.lean ====
section
/-! DEFINITION. The commands of QRCORE: one constructor for each row of spec opcode_table.json (30_encoding.md R91, R92). -/

namespace Sys2Proof

/-- A decoded command. Every operand is an unsigned number read straight from its bits (30_encoding.md R94); which values are
legal is checked when the command runs, not here. -/
inductive Instr where
  /-- NOP (R124). -/
  | nop
  /-- CLRG: clear the grid (R125). -/
  | clrg
  /-- RSENC K, E: ECC codewords of CW[0..K-1] (R148). -/
  | rsenc (k e : Nat)
  /-- PLACE VER, MASK, L: fill the data modules of the grid (R178). -/
  | place (ver mask l : Nat)
  /-- SCORE VER, MASK: the penalty rules and the best-mask tracker (R208). -/
  | score (ver mask : Nat)
  /-- CLRBEST: clear the best-mask tracker (R126). -/
  | clrbest
  deriving DecidableEq, Repr

end Sys2Proof
end

