-- ==== Sys2Proof/WellFormed.lean ====
section
/-! DEFINITION. Which commands a word can express: each operand fits its field (spec 30_encoding.md R94). -/

namespace Sys2Proof

/-- Every operand fits the width of its field: K and L 8 bits, E 5, VER 3, MASK 4 (R94). Legal VALUES are no matter of this
predicate: RSENC with E = 8 is well formed and fails when it runs (R98). -/
abbrev WellFormed : Instr → Prop
  | .nop | .clrg | .clrbest => True
  | .rsenc k e => k < 256 ∧ e < 32
  | .place ver mask l => ver < 8 ∧ mask < 16 ∧ l < 256
  | .score ver mask => ver < 8 ∧ mask < 16

end Sys2Proof
end

