-- ==== Sys2Proof/Decode.lean ====
section
/-! DEFINITION. Decoding and encoding of command words (spec 30_encoding.md R90 to R99). Total on every word: a word that is no
command is rejected by name. -/

namespace Sys2Proof

/-- Why a word is no command (R93). Both end in ERR_OPCODE. -/
inductive Reject where
  /-- OPC is 0x6 to 0xF. -/
  | reservedOpcode
  /-- OPC selects a command and a reserved bit is 1. -/
  | reservedBit
  deriving DecidableEq, Repr

/-- `w[hi:lo]` read as an unsigned number (R9). -/
def bits (w : Word) (hi lo : Nat) : Nat := (w.extractLsb hi lo).toNat

/-- The decoder (R91 to R94): the opcode, then that row's reserved bits, then its fields. -/
def decode (w : Word) : Except Reject Instr :=
  match bits w 31 28 with
  | 0x0 => if bits w 27 0 = 0 then .ok .nop else .error .reservedBit
  | 0x1 => if bits w 27 0 = 0 then .ok .clrg else .error .reservedBit
  | 0x2 =>
    if bits w 27 21 = 0 ∧ bits w 15 8 = 0 then .ok (.rsenc (bits w 7 0) (bits w 20 16))
    else .error .reservedBit
  | 0x3 =>
    if bits w 27 15 = 0 then .ok (.place (bits w 14 12) (bits w 11 8) (bits w 7 0))
    else .error .reservedBit
  | 0x4 =>
    if bits w 27 15 = 0 ∧ bits w 7 0 = 0 then .ok (.score (bits w 14 12) (bits w 11 8))
    else .error .reservedBit
  | 0x5 => if bits w 27 0 = 0 then .ok .clrbest else .error .reservedBit
  | _ => .error .reservedOpcode

/-- The opcode of a command (R92). -/
def opcodeOf : Instr → Nat
  | .nop => 0x0
  | .clrg => 0x1
  | .rsenc _ _ => 0x2
  | .place _ _ _ => 0x3
  | .score _ _ => 0x4
  | .clrbest => 0x5

/-- The operand bits of a command's word, in their places of R91. -/
def operandBits : Instr → Nat
  | .nop | .clrg | .clrbest => 0
  | .rsenc k e => e * 0x10000 + k
  | .place ver mask l => ver * 0x1000 + mask * 0x100 + l
  | .score ver mask => ver * 0x1000 + mask * 0x100

/-- The encoder: the word of a well-formed command (R91, R100). -/
def encode (i : Instr) : Word := BitVec.ofNat 32 (opcodeOf i * 0x10000000 + operandBits i)

/-- The decoder on a word numbered as opcode_table.json numbers it: `nbits` bits of `w`, every higher bit 0. A command is
exactly one 32-bit word (R99), and the bus has no byte order (20_memory.md R66), so the word is taken as it is. -/
def decodeTableWord (nbits w : Nat) : Option Instr :=
  match decode (BitVec.ofNat 32 (w % 2 ^ nbits)) with
  | .ok i => some i
  | .error _ => none

end Sys2Proof
end

