-- ==== Sys2Proof/Config.lean ====
section
/-! DEFINITION. What is fixed for one QRCORE: the parameters of spec 00_scope.md R7 with their defaults, and the free values
that the spec leaves open (70_reset_and_hazards.md R271, R276). -/

namespace Sys2Proof

/-- The parameters of R7. `TIMING` is no number here: the list of moves in the state says when the engine moves (R280). -/
structure Config where
  /-- `VERSIONS`: legal values of the VER field. -/
  versions : List Nat
  /-- `MAX_SIZE`: the side of the grid RAM. -/
  maxSize : Nat
  /-- `CW_CAP`: entries of the codeword buffer. -/
  cwCap : Nat
  /-- `ECC_LENGTHS`: the E values with a generator polynomial in ROM. -/
  eccLengths : List Nat
  /-- `GF_POLY`: the field's reduction polynomial, 9 bits. -/
  gfPoly : BitVec 9
  /-- `GF_ALPHA`: the primitive element. -/
  gfAlpha : Byte
  /-- `GEN_B`: the exponent of the first root of the generator polynomial. -/
  genB : Nat
  /-- `MASK_DEFAULT_BITS`: whether default bits pass through the mask (90_conflicts.md C1). -/
  maskDefaultBits : Bool
  deriving DecidableEq, Repr

/-- The values this hardware takes (R7, column "default").
PRESUMED (log entry 14): several of them the spec itself takes from general knowledge. -/
def Config.hw : Config where
  versions := [1, 2, 3, 4]
  maxSize := 33
  cwCap := 100
  eccLengths := [7, 10, 15, 20]
  gfPoly := 0x11D
  gfAlpha := 0x02
  genB := 0
  maskDefaultBits := true

/-- Stages of the shift register REM: the longest ECC length it has to hold, 20 on this hardware (10_state.md R32). -/
def Config.remStages (cfg : Config) : Nat := cfg.eccLengths.foldl max 0

/-- FREE VALUE (R271, log entry 3): the byte that CW entry `entry` holds after a reset, before anything writes it.
The first argument is the number of the draw, so that two resets give unrelated bytes. No body: nothing can evaluate it. -/
opaque Config.cwPowerUp (draw entry : Nat) : Byte

/-- FREE VALUE (R276, log entry 4): the word that a bus read of a result register, of CW or of GRID returns while BUSY = 1,
a fresh one for each draw. No body: nothing can evaluate it. -/
opaque Config.busyRead (draw : Nat) : Word

end Sys2Proof
end

