-- ==== Sys2Proof/Machine/State.lean ====
section
/-! DEFINITION. The state of QRCORE as plain data, the reasons a step can stop, and the state after reset (spec 10_state.md,
70_reset_and_hazards.md R270). -/

namespace Sys2Proof.Machine

/-- QRCORE has no fault: it takes no trap (60_exceptions.md R246), and the bus has no error response (20_memory.md R70). A
failing command completes and reports a code in STATUS. So there is nothing to raise, and no constructor (log entry 18). -/
inductive Fault where
  deriving DecidableEq, Repr

/-- Why the model gives a command no meaning. -/
inductive Refusal where
  /-- Raised by `exec` for a command that has no meaning in this model yet (none is left). Safe: the model stops. -/
  | notModelled (mnemonic : String)
  deriving DecidableEq, Repr

/-- STATUS.ERR, the outcome of the last completed command (60_exceptions.md R240). Codes 6 to 15 are never produced. -/
inductive ErrCode where
  | ok
  | opcode
  | version
  | eccLen
  | range
  | unassigned
  deriving DecidableEq, Repr

/-- What a grid cell holds (10_state.md R30): no colour yet, or one of the two colours. -/
inductive Colour where
  | unassigned
  | light
  | dark
  deriving DecidableEq, Repr

/-- The two columns of a strip (42_bit_placer.md R174, R176). -/
inductive Side where
  | right
  | left
  deriving DecidableEq, Repr

/-- Hidden walker state of a PLACE: strip number, row, side, and index into the bit stream (10_state.md R33). -/
structure Walker where
  strip : Nat
  row : Nat
  side : Side
  index : Nat
  deriving DecidableEq, Repr

/-- Hidden working state of a SCORE: a run counter, a matcher state for each pattern, four partial sums (10_state.md R34). -/
structure ScorerWork where
  run : Nat
  fwdMatch : Nat
  revMatch : Nat
  p1 : Nat
  p2 : Nat
  p3 : Nat
  p4 : Nat
  deriving DecidableEq, Repr

/-- One move of an agent (00_scope.md R6): a bus access of the host, the platform's reset input, or the engine's turn. -/
inductive Event where
  /-- `MemRead(addr, 4)` (R11, 20_memory.md R60). -/
  | read (addr : Addr)
  /-- `MemWrite(addr, 4, value)`. -/
  | write (addr : Addr) (value : Word)
  /-- Reset as the one atomic step of 70_reset_and_hazards.md R270. -/
  | reset
  /-- Reset released with the clear of GRID still running, so BUSY = 1 (10_state.md R25, R270; log entry 6). -/
  | resetStart
  /-- The engine's turn: it ends the clear of GRID, or executes the pending command, or idles (40_control.md R121). -/
  | engine
  deriving DecidableEq, Repr

/-- The RAM behind GRID: a sparse list of (bus address, byte) cells in canonical form (log entry 9): addresses strictly rising,
and no entry equal to what an unlisted address reads as. -/
abbrev Memory := List Host.Cell

/-- Everything the spec gives the machine (INVENTORY.md, heading State), as plain data. -/
structure State where
  /-- The model's own: the moves still to come, first one next. Empty: the engine's turn (log entries 1, 2). -/
  events : List Event
  /-- The model's own: the words the bus has returned to the host, newest first (log entry 19). -/
  reads : List Word
  /-- The model's own: how many free values have been drawn (log entry 5). -/
  draws : Nat
  /-- The accepted command word that has not yet completed (R35). -/
  pending : Option Word
  /-- The clear of GRID after a reset is in progress (R25, R35). -/
  clearing : Bool
  /-- STATUS.ERR (R25). -/
  err : ErrCode
  /-- STATUS.STICKY_ERR (R25). -/
  stickyErr : Bool
  /-- STATUS.OVR (R25). -/
  ovr : Bool
  /-- P1_RUN (R26). -/
  p1Run : Word
  /-- P2_BLOCK (R26). -/
  p2Block : Word
  /-- P3_FINDER (R26). -/
  p3Finder : Word
  /-- P4_BALANCE (R26). -/
  p4Balance : Word
  /-- TOTAL (R26). -/
  total : Word
  /-- DARK_COUNT (R26). -/
  darkCount : Word
  /-- BEST_SCORE (R27). -/
  bestScore : Word
  /-- BEST_MASK.VALID (R27). -/
  bestValid : Bool
  /-- BEST_MASK.MASKID (R27). -/
  bestMaskId : BitVec 3
  /-- PLACE_CONSUMED (R28). -/
  placeConsumed : Word
  /-- PLACE_DEFAULTED (R28). -/
  placeDefaulted : Word
  /-- CW[0..CW_CAP-1], 100 entries on this hardware (R31). -/
  cw : Vector Byte Config.hw.cwCap
  /-- GRID[0..32][0..32] (R29), at its bus addresses. -/
  mem : Memory
  /-- REM[0..19], hidden (R32). -/
  rem : Vector Byte Config.hw.remStages
  /-- Walker state, hidden; it has no value between commands (R33). -/
  walker : Option Walker
  /-- Scorer working state, hidden; it exists only while SCORE runs (R34). -/
  scorer : Option ScorerWork
  deriving DecidableEq, Repr

/-- CW after a reset: a free byte in every entry (R271). -/
def cwAfterReset (draw : Nat) : Vector Byte Config.hw.cwCap :=
  ⟨((List.range Config.hw.cwCap).map (Config.cwPowerUp draw)).toArray, by simp⟩

/-- The machine right after reset (R270): every register at its reset value of R22, every cell UNASSIGNED (no cell listed), CW
free, BUSY = 0. REM is zero by DESIGN CHOICE (log entry 7). -/
def State.reset : State where
  events := []
  reads := []
  draws := 1
  pending := none
  clearing := false
  err := .ok
  stickyErr := false
  ovr := false
  p1Run := 0
  p2Block := 0
  p3Finder := 0
  p4Balance := 0
  total := 0
  darkCount := 0
  bestScore := 0
  bestValid := false
  bestMaskId := 0
  placeConsumed := 0
  placeDefaulted := 0
  cw := cwAfterReset 0
  mem := []
  rem := Vector.replicate Config.hw.remStages 0
  walker := none
  scorer := none

end Sys2Proof.Machine
end

