-- ==== Sys2Proof/Machine/Ops.lean ====
section
/-! DEFINITION. The named operations over memory, buffers and registers, and the one way a command ends, with or without an
error (spec 10_state.md R29 to R31, 40_control.md R122, 60_exceptions.md R241). -/

namespace Sys2Proof.Machine

/-! ### The sparse memory behind GRID -/

/-- What an unlisted address reads as: code 0b00, UNASSIGNED, the reset contents of every GRID cell (R22, R30). -/
def Memory.unlisted : Byte := 0#8

/-- The canonical form: addresses strictly rising, and no entry equal to what an unlisted address reads as. -/
abbrev Memory.wf (m : Memory) : Prop :=
  m.Pairwise (fun x y => x.1 < y.1) ∧ ∀ x ∈ m, x.2 ≠ Memory.unlisted

/-- The byte at an address. -/
def Memory.read : Memory → Nat → Byte
  | [], _ => Memory.unlisted
  | (k, v) :: rest, a => bif Nat.beq k a then v else Memory.read rest a

/-- Put a byte in front of a tail, unless it is what an unlisted address reads as. -/
def Memory.put (a : Nat) (b : Byte) (rest : Memory) : Memory :=
  if b = Memory.unlisted then rest else (a, b) :: rest

/-- Write the byte at an address, keeping the canonical form. -/
def Memory.write : Memory → Nat → Byte → Memory
  | [], a, b => Memory.put a b []
  | (k, v) :: rest, a, b =>
    bif Nat.blt a k then Memory.put a b ((k, v) :: rest)
    else bif Nat.beq k a then Memory.put a b rest
    else (k, v) :: Memory.write rest a b

/-! ### Grid cells -/

/-- The side of the grid RAM (R29). -/
def gridSide : Nat := Config.hw.maxSize

/-- The bus address of cell (r, c) (R29). -/
def cellAddr (r c : Nat) : Nat := 0x1000 + 4 * (gridSide * r + c)

/-- The code of a colour (R30). -/
def colourCode : Colour → BitVec 2
  | .unassigned => 0b00
  | .light => 0b10
  | .dark => 0b11

/-- The byte that stands for a colour in the memory: its code, zero-extended. -/
def colourByte (x : Colour) : Byte := (colourCode x).setWidth 8

/-- The colour that a word written to a cell stores, by its bits 1 and 0 (R30). -/
def colourOfBits (bit1 bit0 : Bool) : Colour :=
  match bit1, bit0 with
  | false, _ => .unassigned
  | true, false => .light
  | true, true => .dark

/-- GRID[r][c]. -/
def cellAt (m : Memory) (r c : Nat) : Colour :=
  let b := m.read (cellAddr r c)
  colourOfBits (b.getLsbD 1) (b.getLsbD 0)

/-- GRID[r][c] <- x. -/
def setCell (m : Memory) (r c : Nat) (x : Colour) : Memory := m.write (cellAddr r c) (colourByte x)

/-! ### Byte buffers (CW and REM) -/

/-- Entry i of a buffer. Only entries inside the buffer are ever read: every command checks its operands first (R123). -/
def bufferGet {n : Nat} (v : Vector Byte n) (i : Nat) : Byte := v[i]?.getD 0#8

/-- Store a list of bytes from entry i on. -/
def bufferStore {n : Nat} (v : Vector Byte n) : Nat → List Byte → Vector Byte n
  | _, [] => v
  | i, b :: bs => bufferStore (v.setIfInBounds i b) (i + 1) bs

/-- The first k entries of a buffer, in order. -/
def bufferTake {n : Nat} (v : Vector Byte n) (k : Nat) : List Byte := (List.range k).map (bufferGet v)

/-! ### Registers -/

/-- ID, the block identifier, ASCII "QRC1" (R23). -/
def idValue : Word := 0x51524331

/-- STATUS.BUSY: a command is pending or the reset clear is in progress (R35). -/
def busy (s : State) : Bool := s.pending.isSome || s.clearing

/-- The six penalty result registers, written together (R26, R208). -/
def recordScore (p1 p2 p3 p4 dark : Nat) (s : State) : State :=
  { s with
    p1Run := BitVec.ofNat 32 p1
    p2Block := BitVec.ofNat 32 p2
    p3Finder := BitVec.ofNat 32 p3
    p4Balance := BitVec.ofNat 32 p4
    total := BitVec.ofNat 32 (p1 + p2 + p3 + p4)
    darkCount := BitVec.ofNat 32 dark }

/-- The best-mask tracker takes a new best candidate (R207). -/
def recordBest (score : Word) (maskId : BitVec 3) (s : State) : State :=
  { s with bestScore := score, bestValid := true, bestMaskId := maskId }

/-- The best-mask tracker holds no candidate (R126). -/
def clearBest (s : State) : State := { s with bestScore := 0, bestValid := false, bestMaskId := 0 }

/-- All 1089 cells UNASSIGNED (R125, R270): the RAM holds nothing but the grid, so nothing is listed. -/
def clearGrid (s : State) : State := { s with mem := [] }

/-- The grid and the two counters after a walk (R178). -/
def recordPlace (m : Memory) (consumed defaulted : Nat) (s : State) : State :=
  { s with mem := m, placeConsumed := BitVec.ofNat 32 consumed, placeDefaulted := BitVec.ofNat 32 defaulted }

/-- CW[k..] and REM[0..] take the remainder of an RSENC (R147, R148). -/
def recordEcc (k : Nat) (ecc : List Byte) (s : State) : State :=
  { s with cw := bufferStore s.cw k ecc, rem := bufferStore s.rem 0 ecc }

/-! ### How a command ends

This is what other machines have as taking an exception. QRCORE takes no trap (R246): an error saves no state, changes no mode and
transfers control nowhere. There is no return from one either (R247). -/

/-- Completion with a code (R122): ERR, STICKY_ERR when the code is an error, nothing pending. The hidden walker and scorer state
ends with the command (R33, R34). -/
def complete (code : ErrCode) (s : State) : State :=
  { s with
    err := code
    stickyErr := s.stickyErr || decide (code ≠ .ok)
    pending := none
    walker := none
    scorer := none }

/-- A command ends well: code 0. -/
def succeed (s : State) : Host.Outcome State Fault Refusal := .next (complete .ok s)

/-- `raise Error(code)` (R12, R241): everything unchanged but STATUS. -/
def raiseError (code : ErrCode) (s : State) : Host.Outcome State Fault Refusal := .next (complete code s)

/-- The state after a reset, in the model's one atomic step (R270): every field as `State.reset` has it, CW freshly drawn, and the
model's own bookkeeping kept. A pending command is abandoned (R244). -/
def resetState (s : State) : State :=
  { State.reset with
    events := s.events
    reads := s.reads
    draws := s.draws + 1
    cw := cwAfterReset s.draws }

/-- The state when reset is released and the clear of GRID has not ended (R270): as after a reset, but the grid is not cleared yet
and BUSY = 1. -/
def resetStartState (s : State) : State := { resetState s with mem := s.mem, clearing := true }

/-- The clear of GRID ends (R270). -/
def endClear (s : State) : State := { clearGrid s with clearing := false }

end Sys2Proof.Machine
end

