-- ==== Sys2Proof/Machine/Flags.lean ====
section
/-! DEFINITION. The words that STATUS and BEST_MASK read as, the write-1-to-clear bits of STATUS, and the rule by which the
best-mask tracker takes a candidate (spec 10_state.md R25, R27, 60_exceptions.md R240, 43_penalty_scorer.md R207). -/

namespace Sys2Proof.Machine

/-- The number of an error code (R240). -/
def errCode : ErrCode → BitVec 4
  | .ok => 0
  | .opcode => 1
  | .version => 2
  | .eccLen => 3
  | .range => 4
  | .unassigned => 5

/-- STATUS as the bus reads it (R25): ERR in bits 7:4, OVR bit 2, STICKY_ERR bit 1, BUSY bit 0, every other bit 0. -/
def statusWord (s : State) : Word :=
  0#24 ++ errCode s.err ++ 0#1 ++ BitVec.ofBool s.ovr ++ BitVec.ofBool s.stickyErr ++ BitVec.ofBool (busy s)

/-- A write to STATUS while BUSY = 0 (R25): bit 1 clears STICKY_ERR, bit 2 clears OVR, nothing else changes. -/
def clearStatusBits (w : Word) (s : State) : State :=
  { s with stickyErr := s.stickyErr && !w.getLsbD 1, ovr := s.ovr && !w.getLsbD 2 }

/-- BEST_MASK as the bus reads it (R27): VALID in bit 31, MASKID in bits 2:0, every other bit 0. -/
def bestMaskWord (s : State) : Word := BitVec.ofBool s.bestValid ++ 0#28 ++ s.bestMaskId

/-- A candidate of mask id `mask` with score `score` beats what the tracker holds (R207). -/
def beatsBest (mask : Nat) (score : Word) (s : State) : Bool :=
  !s.bestValid || decide (score < s.bestScore) ||
    (decide (score = s.bestScore) && decide (mask < s.bestMaskId.toNat))

/-- The tracker's update after a good SCORE (R207): only mask ids 0 to 7 are candidates. -/
def updateBest (mask : Nat) (score : Word) (s : State) : State :=
  if mask ≤ 7 && beatsBest mask score s then recordBest score (BitVec.ofNat 3 mask) s else s

end Sys2Proof.Machine
end

