-- ==== Sys2Proof/Machine/Bus.lean ====
section
/-! DEFINITION. The host bus: the register map, reads and writes, and what BUSY does to them (spec 10_state.md R22 to R31,
20_memory.md R60 to R70, 70_reset_and_hazards.md R275, R276). -/

namespace Sys2Proof.Machine

/-- The registers of R22. -/
inductive RegName where
  | id
  | cmd
  | status
  | p1Run
  | p2Block
  | p3Finder
  | p4Balance
  | total
  | darkCount
  | bestScore
  | bestMask
  | placeConsumed
  | placeDefaulted
  deriving DecidableEq, Repr

/-- What an address of the bus reaches (R63, R65). -/
inductive Location where
  | register (name : RegName)
  | codeword (i : Nat)
  | cell (r c : Nat)
  | unmapped
  deriving DecidableEq, Repr

/-- The offsets of the registers (R22). None of them is a control, mode, vector or map register: nothing needs setting up before a
command runs (70_reset_and_hazards.md R272). -/
def registerMap : List (Nat × RegName) :=
  [(0x000, .id), (0x004, .cmd), (0x008, .status), (0x00C, .p1Run), (0x010, .p2Block), (0x014, .p3Finder),
   (0x018, .p4Balance), (0x01C, .total), (0x020, .darkCount), (0x024, .bestScore), (0x028, .bestMask),
   (0x02C, .placeConsumed), (0x030, .placeDefaulted)]

/-- The word address an access reaches: bits 1:0 of the address are ignored (R62). -/
def wordAddr (a : Addr) : Nat := (a &&& 0x3FFC#14).toNat

/-- The address of CW[i] (R31). -/
def codewordAddr (i : Nat) : Nat := 0x400 + 4 * i

/-- Where a word address leads (R22, R63, R64). -/
def locateWord (w : Nat) : Location :=
  match registerMap.lookup w with
  | some name => .register name
  | none =>
    if codewordAddr 0 ≤ w ∧ w < codewordAddr Config.hw.cwCap then .codeword ((w - codewordAddr 0) / 4)
    else if cellAddr 0 0 ≤ w ∧ w < cellAddr gridSide 0 then
      .cell ((w - cellAddr 0 0) / 4 / gridSide) ((w - cellAddr 0 0) / 4 % gridSide)
    else .unmapped

/-- Where a bus address leads. -/
def locate (a : Addr) : Location := locateWord (wordAddr a)

/-- The word that a register reads as while BUSY = 0 (R22 to R28). -/
def registerWord (s : State) : RegName → Word
  | .id => idValue
  | .cmd => 0
  | .status => statusWord s
  | .p1Run => s.p1Run
  | .p2Block => s.p2Block
  | .p3Finder => s.p3Finder
  | .p4Balance => s.p4Balance
  | .total => s.total
  | .darkCount => s.darkCount
  | .bestScore => s.bestScore
  | .bestMask => bestMaskWord s
  | .placeConsumed => s.placeConsumed
  | .placeDefaulted => s.placeDefaulted

/-- The word that a location reads as while BUSY = 0 (R30, R31, R64). -/
def locationWord (s : State) : Location → Word
  | .register name => registerWord s name
  | .codeword i => (bufferGet s.cw i).setWidth 32
  | .cell r c => (colourCode (cellAt s.mem r c)).setWidth 32
  | .unmapped => 0

/-- The locations whose reads are exact while BUSY = 1 too: STATUS, ID, CMD and unmapped words (R276). -/
def exactWhileBusy : Location → Bool
  | .register .id | .register .cmd | .register .status | .unmapped => true
  | .register _ | .codeword _ | .cell _ _ => false

/-- The bus answers a read with a word. -/
def answerRead (w : Word) (s : State) : State := { s with reads := w :: s.reads }

/-- A free word is drawn for a read (R276, log entry 4). -/
def drawRead (s : State) : State := { answerRead (Config.busyRead s.draws) s with draws := s.draws + 1 }

/-- `MemRead(addr, 4)`: no side effect on the block (R69). While BUSY = 1 most locations answer a free word (R276). -/
def hostRead (a : Addr) (s : State) : State :=
  if busy s && !exactWhileBusy (locate a) then drawRead s else answerRead (locationWord s (locate a)) s

/-- A write to a location while BUSY = 0: CMD accepts a command (R120), STATUS clears its W1C bits (R25), CW and GRID store (R30,
R31), every other location ignores it (R22, R64). -/
def writeLocation (loc : Location) (v : Word) (s : State) : State :=
  match loc with
  | .register .cmd => { s with pending := some v }
  | .register .status => clearStatusBits v s
  | .register _ => s
  | .codeword i => { s with cw := s.cw.setIfInBounds i (v.setWidth 8) }
  | .cell r c => { s with mem := setCell s.mem r c (colourOfBits (v.getLsbD 1) (v.getLsbD 0)) }
  | .unmapped => s

/-- `MemWrite(addr, 4, v)`. While BUSY = 1 every write is dropped and sets OVR (R275). -/
def hostWrite (a : Addr) (v : Word) (s : State) : State :=
  if busy s then { s with ovr := true } else writeLocation (locate a) v s

end Sys2Proof.Machine
end

