-- ==== Sys2Proof/Machine/Control.lean ====
section
/-! DEFINITION. The commands that compute nothing: NOP, CLRG, CLRBEST (spec 40_control.md R124 to R126). -/

namespace Sys2Proof.Machine

/-- NOP (R124): only ERR changes. -/
def execNop (s : State) : Host.Outcome State Fault Refusal := succeed s

/-- CLRG (R125): all 1089 cells to UNASSIGNED, whatever the version. -/
def execClrg (s : State) : Host.Outcome State Fault Refusal := succeed (clearGrid s)

/-- CLRBEST (R126): BEST_SCORE and BEST_MASK to 0. -/
def execClrbest (s : State) : Host.Outcome State Fault Refusal := succeed (clearBest s)

end Sys2Proof.Machine
end

