-- ==== Sys2Proof/Machine/Operands.lean ====
section
/-! DEFINITION. What the operand fields of the commands mean: versions, side lengths, mask ids, ECC lengths, stream bits (spec
30_encoding.md R95 to R97, 42_bit_placer.md R170, R171, R173). -/

namespace Sys2Proof.Machine

/-- VER is legal (R96). -/
def versionLegal (cfg : Config) (ver : Nat) : Bool := cfg.versions.contains ver

/-- The side length S(v) = 4·v + 17 (R8). -/
def sideLength (ver : Nat) : Nat := 4 * ver + 17

/-- E has a generator polynomial in ROM (R97). -/
def eccLengthLegal (cfg : Config) (e : Nat) : Bool := cfg.eccLengths.contains e

/-- The mask that a MASK field selects at row r and column c (R170, R171): formulas 0 to 7, no masking for 8 to 15. -/
def maskOn (mask r c : Nat) : Bool :=
  match mask with
  | 0 => (r + c) % 2 == 0
  | 1 => r % 2 == 0
  | 2 => c % 3 == 0
  | 3 => (r + c) % 3 == 0
  | 4 => (r / 2 + c / 3) % 2 == 0
  | 5 => (r * c) % 2 + (r * c) % 3 == 0
  | 6 => ((r * c) % 2 + (r * c) % 3) % 2 == 0
  | 7 => ((r + c) % 2 + (r * c) % 3) % 2 == 0
  | _ => false

/-- Stream bit n of the codeword buffer: bytes in buffer order, each most significant bit first (R173). -/
def streamBit {entries : Nat} (cw : Vector Byte entries) (n : Nat) : Bool := (bufferGet cw (n / 8)).getLsbD (7 - n % 8)

end Sys2Proof.Machine
end

