-- ==== Sys2Proof/Machine/Placer.lean ====
section
/-! DEFINITION. PLACE, the bit placer: the zig-zag walk, one cell at a time, through the mask (spec 42_bit_placer.md R172 to
R183). -/

namespace Sys2Proof.Machine

/-- The right column cR(t) of strip t, numbered from 1 at the right; one column further left past column 6 (R174). -/
def stripRightColumn (side t : Nat) : Nat :=
  if t ≤ (side - 7) / 2 then side + 1 - 2 * t else side - 2 * t

/-- The rows of strip t in walking order: upward when t is odd, downward when it is even (R175). -/
def stripRows (side t : Nat) : List Nat :=
  if t % 2 = 1 then (List.range side).reverse else List.range side

/-- The strips' numbers, 1 to (S-1)/2 (R174). -/
def stripNumbers (side : Nat) : List Nat := (List.range ((side - 1) / 2)).map (· + 1)

/-- The positions of strip t: at each row the right column, then the left (R176). -/
def stripWalk (side t : Nat) : List (Nat × Nat) :=
  (stripRows side t).flatMap fun r => [(r, stripRightColumn side t), (r, stripRightColumn side t - 1)]

/-- The whole walk as (row, column) positions (R176). Column 6 is in no strip. -/
def walk (side : Nat) : List (Nat × Nat) := (stripNumbers side).flatMap (stripWalk side)

/-- What a PLACE carries along the walk: the grid, stream bits used (n), default bits (d) (R177). The hidden walker state of R33 is
the position in the walk together with n. -/
structure Placing where
  mem : Memory
  used : Nat
  defaulted : Nat
  deriving DecidableEq, Repr

/-- The colour of a data module: stream bit n, or the default bit 0 when the stream of l codewords is exhausted, inverted where the
mask applies (R177). -/
def moduleColour {entries : Nat} (cfg : Config) (cw : Vector Byte entries) (mask l n r c : Nat) : Colour :=
  let fromStream := decide (n < 8 * l)
  let bit := fromStream && streamBit cw n
  let inverted := (fromStream || cfg.maskDefaultBits) && maskOn mask r c
  if bit ^^ inverted then .dark else .light

/-- One position of the walk (R177): a structural module is skipped, a data module is painted once. -/
def placeCell {entries : Nat} (cfg : Config) (cw : Vector Byte entries) (mask l : Nat) (p : Placing) (pos : Nat × Nat) : Placing :=
  match cellAt p.mem pos.1 pos.2 with
  | .unassigned =>
    { mem := setCell p.mem pos.1 pos.2 (moduleColour cfg cw mask l p.used pos.1 pos.2)
      used := if p.used < 8 * l then p.used + 1 else p.used
      defaulted := if p.used < 8 * l then p.defaulted else p.defaulted + 1 }
  | .light => p
  | .dark => p

/-- The walk over the grid (R178). -/
def placeAll {entries : Nat} (cfg : Config) (cw : Vector Byte entries) (mask l : Nat) (m : Memory) (side : Nat) : Placing :=
  (walk side).foldl (placeCell cfg cw mask l) { mem := m, used := 0, defaulted := 0 }

/-- PLACE VER, MASK, L (R178): the checks in the order of R243, then the walk and the two counters. -/
def execPlace (ver mask l : Nat) (s : State) : Host.Outcome State Fault Refusal :=
  if !versionLegal Config.hw ver then raiseError .version s
  else if Config.hw.cwCap < l then raiseError .range s
  else
    let p := placeAll Config.hw s.cw mask l s.mem (sideLength ver)
    succeed (recordPlace p.mem p.used p.defaulted s)

end Sys2Proof.Machine
end

