-- ==== Sys2Proof/Machine/Field.lean ====
section
/-! DEFINITION. The field GF(256), the generator ROM and the division circuit of the Reed-Solomon encoder (spec
41_rs_encoder.md R140, R141, R145, R147). -/

namespace Sys2Proof.Machine

/-- The sum of two field elements (R140). -/
def gfAdd (a b : Byte) : Byte := a ^^^ b

/-- One turn of the multiplier's shift: `a << 1` as 9 bits, reduced by GF_POLY when bit 8 is 1 (R141). -/
def gfDouble (cfg : Config) (a : Byte) : Byte :=
  let a9 : BitVec 9 := a.setWidth 9 <<< 1
  (if a9.getLsbD 8 then a9 ^^^ cfg.gfPoly else a9).setWidth 8

/-- The multiplier's loop over the bits i, i + 1, … of b, for as many turns as the first argument says (R141). -/
def gfMulLoop (cfg : Config) : Nat → Nat → Byte → Byte → Byte → Byte
  | 0, _, p, _, _ => p
  | turns + 1, i, p, a, b =>
    gfMulLoop cfg turns (i + 1) (if b.getLsbD i then p ^^^ a else p) (gfDouble cfg a) b

/-- The product of two field elements (R141). -/
def gfMul (cfg : Config) (a b : Byte) : Byte := gfMulLoop cfg 8 0 0#8 a b

/-- α^i (R142). -/
def alphaPow (cfg : Config) : Nat → Byte
  | 0 => 1
  | i + 1 => gfMul cfg (alphaPow cfg i) cfg.gfAlpha

/-! ### Polynomials over the field, highest coefficient first (R144 to R147) -/

/-- The sum of two polynomials of the same length. -/
def polyAdd (p q : List Byte) : List Byte := List.zipWith gfAdd p q

/-- The product of two polynomials: a q of n coefficients and a g of m + 1 give n + m coefficients. -/
def polyMul (cfg : Config) : List Byte → List Byte → List Byte
  | [], g => List.replicate (g.length - 1) 0#8
  | c :: q, g => polyAdd (g.map (gfMul cfg c) ++ List.replicate q.length 0#8) (0#8 :: polyMul cfg q g)

/-- (x + α^GEN_B)·…·(x + α^(GEN_B+E-1)), the leading 1 included (R144). -/
def rootProduct (cfg : Config) : Nat → List Byte
  | 0 => [1]
  | e + 1 => polyMul cfg (rootProduct cfg e) [1, alphaPow cfg (cfg.genB + e)]

/-- The generator ROM: G_E[0..E-1], without the leading 1, computed from GF_POLY, GF_ALPHA and GEN_B (R144, R145). An E outside
ECC_LENGTHS has no entry. -/
def generatorRom (cfg : Config) (e : Nat) : List Byte :=
  if eccLengthLegal cfg e then (rootProduct cfg e).tail else []

/-! ### The division circuit -/

/-- One data byte through the shift register (R147): the feedback, the shift, the taps. -/
def shiftRegisterStep (cfg : Config) (gen : List Byte) (rem : List Byte) (d : Byte) : List Byte :=
  let f := d ^^^ rem.headD 0#8
  List.zipWith (fun x g => x ^^^ gfMul cfg f g) (rem.tail ++ [0#8]) gen

/-- The division circuit (R147): REM cleared, then one step for each data byte. -/
def rsRemainder (cfg : Config) (data : List Byte) (e : Nat) : List Byte :=
  data.foldl (shiftRegisterStep cfg (generatorRom cfg e)) (List.replicate e 0#8)

end Sys2Proof.Machine
end

