-- ==== Sys2Proof/Machine/RsEncoder.lean ====
section
/-! DEFINITION. RSENC, the Reed-Solomon encoder (spec 41_rs_encoder.md R148). -/

namespace Sys2Proof.Machine

/-- The ECC codewords of the first k entries of CW (R146, R147). -/
def eccOf {entries : Nat} (cw : Vector Byte entries) (k e : Nat) : List Byte := rsRemainder Config.hw (bufferTake cw k) e

/-- RSENC K, E (R148): the checks in the order of R243, then CW[K..K+E-1] <- the remainder. -/
def execRsenc (k e : Nat) (s : State) : Host.Outcome State Fault Refusal :=
  if !eccLengthLegal Config.hw e then raiseError .eccLen s
  else if Config.hw.cwCap < k + e then raiseError .range s
  else succeed (recordEcc k (eccOf s.cw k e) s)

end Sys2Proof.Machine
end

