-- ==== Sys2Proof/Machine/Scorer.lean ====
section
/-! DEFINITION. SCORE, the penalty scorer: the four rules over the S×S corner and the best-mask tracker (spec
43_penalty_scorer.md R200 to R210). -/

namespace Sys2Proof.Machine

/-- The colours of the S×S corner, row by row: all that scoring reads (R200, R209). -/
def corner (m : Memory) (side : Nat) : List (List Colour) :=
  (List.range side).map fun r => (List.range side).map fun c => cellAt m r c

/-- Every cell of the corner is LIGHT or DARK (R200). -/
def cornerFinished (g : List (List Colour)) : Bool := g.all fun row => row.all fun x => x != .unassigned

/-- `dark` of every cell, row by row (R14). -/
def darkRows (g : List (List Colour)) : List (List Bool) := g.map fun row => row.map fun x => x == .dark

/-- `dark(r, c)` (R14). -/
def darkAt (p : List (List Bool)) (r c : Nat) : Bool := (p.getD r []).getD c false

/-- Column c, top to bottom. -/
def columnLine (p : List (List Bool)) (c : Nat) : List Bool := p.map fun row => row.getD c false

/-- The 2·S lines: the rows, then the columns. -/
def gridLines (p : List (List Bool)) (side : Nat) : List (List Bool) := p ++ (List.range side).map (columnLine p)

/-- The scan of one line after its first module: the colour before, the length of the run so far, the penalty so far (R201). -/
def runPenaltyFrom (prev : Bool) (run p : Nat) : List Bool → Nat
  | [] => p
  | x :: xs =>
    if x = prev then
      runPenaltyFrom x (run + 1) (if run + 1 = 5 then p + 3 else if 5 < run + 1 then p + 1 else p) xs
    else runPenaltyFrom x 1 p xs

/-- Rule 1 on one line (R201): 3 when a run reaches 5 modules, then 1 for each further module. -/
def runPenalty : List Bool → Nat
  | [] => 0
  | x :: xs => runPenaltyFrom x 1 0 xs

/-- Rule 1 over rows and columns (R201). -/
def penaltyRuns (p : List (List Bool)) (side : Nat) : Nat := ((gridLines p side).map runPenalty).sum

/-- The 2×2 window with its top-left corner at (r, c) has one colour (R202). -/
def blockAt (p : List (List Bool)) (r c : Nat) : Bool :=
  darkAt p r c == darkAt p r (c + 1) && darkAt p r c == darkAt p (r + 1) c && darkAt p r c == darkAt p (r + 1) (c + 1)

/-- Rule 2 (R202): 3 for each of the (S-1)² windows of one colour. -/
def penaltyBlocks (p : List (List Bool)) (side : Nat) : Nat :=
  3 * ((List.range (side - 1)).map fun r => (List.range (side - 1)).countP (blockAt p r)).sum

/-- FWD, the finder-like pattern, dark as true (R203). -/
def finderForward : List Bool := [false, false, false, false, true, false, true, true, true, false, true]

/-- REV, its mirror (R203). -/
def finderReverse : List Bool := [true, false, true, true, true, false, true, false, false, false, false]

/-- The padded form of a line: one virtual light module at each end (R203). -/
def padLine (x : List Bool) : List Bool := [false] ++ x ++ [false]

/-- How many windows of a line equal a pattern, each position counted on its own (R204). -/
def occurrences (pattern : List Bool) : List Bool → Nat
  | [] => 0
  | y :: ys => (if (y :: ys).take pattern.length = pattern then 1 else 0) + occurrences pattern ys

/-- The matches of both patterns in one line (R204). -/
def finderMatches (x : List Bool) : Nat :=
  occurrences finderForward (padLine x) + occurrences finderReverse (padLine x)

/-- Rule 3 (R204): 40 for every window of a padded line that equals either pattern. -/
def penaltyFinder (p : List (List Bool)) (side : Nat) : Nat := 40 * ((gridLines p side).map finderMatches).sum

/-- D: the dark cells of the corner (R205). -/
def darkCells (p : List (List Bool)) : Nat := (p.map fun row => row.count true).sum

/-- Rule 4 by its closed form, for d dark cells of n (R205). -/
def balancePenalty (d n : Nat) : Nat :=
  let k := 20 * d / n
  if 10 ≤ k then 10 * (k - 10) else 10 * (9 - k)

/-- Rule 4 (R205). -/
def penaltyBalance (p : List (List Bool)) (side : Nat) : Nat := balancePenalty (darkCells p) (side * side)

/-- The exact total of the four rules (R206). -/
def penaltyTotal (p : List (List Bool)) (side : Nat) : Nat :=
  penaltyRuns p side + penaltyBlocks p side + penaltyFinder p side + penaltyBalance p side

/-- The result registers and the tracker after a good SCORE of the picture p (R207, R208). -/
def scorePicture (p : List (List Bool)) (side mask : Nat) (s : State) : State :=
  updateBest mask (BitVec.ofNat 32 (penaltyTotal p side))
    (recordScore (penaltyRuns p side) (penaltyBlocks p side) (penaltyFinder p side) (penaltyBalance p side)
      (darkCells p) s)

/-- SCORE VER, MASK (R208): the checks in the order of R243, then the six result registers and the tracker. Scoring applies no
mask: MASK only feeds the tracker. -/
def execScore (ver mask : Nat) (s : State) : Host.Outcome State Fault Refusal :=
  if !versionLegal Config.hw ver then raiseError .version s
  else
    let g := corner s.mem (sideLength ver)
    if !cornerFinished g then raiseError .unassigned s
    else succeed (scorePicture (darkRows g) (sideLength ver) mask s)

end Sys2Proof.Machine
end

