-- ==== Sys2Proof/Machine/Dispatch.lean ====
section
/-! DEFINITION. One arm for each command (spec 40_control.md R123). -/

namespace Sys2Proof.Machine

def exec (i : Instr) (s : State) : Host.Outcome State Fault Refusal :=
  match i with
  | .nop => Sys2Proof.Machine.execNop s
  | .clrg => Sys2Proof.Machine.execClrg s
  | .rsenc k e => Sys2Proof.Machine.execRsenc k e s
  | .place ver mask l => Sys2Proof.Machine.execPlace ver mask l s
  | .score ver mask => Sys2Proof.Machine.execScore ver mask s
  | .clrbest => Sys2Proof.Machine.execClrbest s

end Sys2Proof.Machine
end

