-- ==== Sys2Proof/Machine/Engine.lean ====
section
/-! DEFINITION. The engine's turn, and one move of either agent (spec 40_control.md R120 to R123). -/

namespace Sys2Proof.Machine

/-- `execute(w)` and the completion that follows it (R121 to R123): the decode check first, then the command. -/
def executeWord (w : Word) (s : State) : Host.Outcome State Fault Refusal :=
  match decode w with
  | .ok i => exec i s
  | .error .reservedOpcode => raiseError .opcode s
  | .error .reservedBit => raiseError .opcode s

/-- The engine's turn: it ends the clear of GRID after a reset (R270), or executes the pending command in one atomic step (R121), or
has nothing to do (R253). -/
def engineTurn (s : State) : Host.Outcome State Fault Refusal :=
  if s.clearing then .next (endClear s)
  else
    match s.pending with
    | some w => executeWord w s
    | none => .next s

/-- One move of an agent. -/
def move (e : Event) (s : State) : Host.Outcome State Fault Refusal :=
  match e with
  | .read a => .next (hostRead a s)
  | .write a v => .next (hostWrite a v s)
  | .reset => .next (resetState s)
  | .resetStart => .next (resetStartState s)
  | .engine => engineTurn s

/-- The move that comes next: the first of the list, or the engine's turn when the list is empty (log entries 1, 2). -/
def nextEvent (s : State) : Event := s.events.headD .engine

/-- The state with the next move taken off the list. -/
def popEvent (s : State) : State := { s with events := s.events.tail }

/-- The state in which a command word is accepted and the engine's turn is next, the rest of the moves after it. -/
def withPending (w : Word) (s : State) : State :=
  { s with events := .engine :: s.events, pending := some w, clearing := false }

end Sys2Proof.Machine
end

