-- ==== Sys2Proof/Machine/Step.lean ====
section
/-! DEFINITION. One step of the machine: the next move of an agent (spec 00_scope.md R6, 40_control.md R121). -/

namespace Sys2Proof.Machine

/-- One step: the next move of the list, or the engine's turn when no move is left. -/
def step (s : State) : Host.Outcome State Fault Refusal := move (nextEvent s) (popEvent s)

/-- The state whose very next step executes the command word w: what a host's write to CMD leaves (R120), with the engine's turn
next (log entry 1). -/
def State.withFetchWord (s : State) (nbits w : Nat) : State := withPending (BitVec.ofNat 32 (w % 2 ^ nbits)) s

end Sys2Proof.Machine
end

