-- ==== Sys2Proof/Machine/HostAsm.lean ====
section
/-! DEFINITION. The host assembly of the spec as builders of event lists (30_encoding.md R100, R101), and the host's boot and job
sequences built from them (70_reset_and_hazards.md R272, R273). The block sees only the bus
accesses; the host's own control flow is not part of it. -/

namespace Sys2Proof.Machine

/-- `RD name, addr` (R100). -/
def asmRd (offset : Nat) : List Event := [.read (BitVec.ofNat 14 offset)]

/-- `WR addr, value` (R100). -/
def asmWr (offset : Nat) (value : Word) : List Event := [.write (BitVec.ofNat 14 offset) value]

/-- A command: its word written to CMD (R100). -/
def asmCommand (i : Instr) : List Event := asmWr 0x004 (encode i)

/-- `WAIT` (R101): some number of polls that still read BUSY = 1, the engine's turn, and the poll that reads BUSY = 0. How many polls
go before is TIMING, which the spec leaves open (R280), so it is an argument. -/
def asmWait (busyPolls : Nat) : List Event :=
  List.replicate busyPolls (.read 0x008#14) ++ [.engine] ++ asmRd 0x008

/-- `WRCW i, b` (R101). -/
def asmWrcw (i : Nat) (b : Word) : List Event := asmWr (codewordAddr i) b

/-- `RDCW name, i` (R101). -/
def asmRdcw (i : Nat) : List Event := asmRd (codewordAddr i)

/-- `WRCELL r, c, code` (R101). -/
def asmWrcell (r c : Nat) (x : Colour) : List Event := asmWr (cellAddr r c) ((colourCode x).setWidth 32)

/-- `RDCELL name, r, c` (R101). -/
def asmRdcell (r c : Nat) : List Event := asmRd (cellAddr r c)

/-- `CLRERR` (R101). -/
def asmClrerr : List Event := asmWr 0x008 0x6

/-! ### What a host does with the block (70_reset_and_hazards.md) -/

/-- The boot of R272, from the release of reset on: poll STATUS until BUSY = 0, then read ID. Nothing else needs setting up. -/
def asmBoot (busyPolls : Nat) : List Event := asmWait busyPolls ++ asmRd 0x000

/-- A command with the `WAIT` that R273 asks for after it. -/
def asmCommandWait (i : Instr) (busyPolls : Nat) : List Event := asmCommand i ++ asmWait busyPolls

/-- Steps 3 to 6 of R273: a cleared grid, the skeleton's cells (row, column, colour), PLACE, SCORE. -/
def asmPlaceAndScore (ver mask l busyPolls : Nat) (skeleton : List (Nat × Nat × Colour)) : List Event :=
  asmCommandWait .clrg busyPolls ++ skeleton.flatMap (fun x => asmWrcell x.1 x.2.1 x.2.2) ++
    asmCommandWait (.place ver mask l) busyPolls ++ asmCommandWait (.score ver mask) busyPolls

/-- Steps 1 to 6 of R273: the data codewords, their ECC, then the grid. -/
def asmJob (data : List Byte) (e ver mask busyPolls : Nat) (skeleton : List (Nat × Nat × Colour)) : List Event :=
  (data.zipIdx.flatMap fun x => asmWrcw x.2 (x.1.setWidth 32)) ++ asmCommandWait (.rsenc data.length e) busyPolls ++
    asmPlaceAndScore ver mask (data.length + e) busyPolls skeleton

end Sys2Proof.Machine
end

