-- ==== Sys2Proof/Safety.lean ====
section
/-! DEFINITION. What counts as a legal state and as a safe host move, in the terms that claims use. -/

namespace Sys2Proof.Machine

/-- A memory entry is a grid cell with a colour: its address is that of a cell of the 33 × 33 RAM, its byte LIGHT or DARK. No cell
holds 0b01 (10_state.md R30, R37). -/
def legalCell (x : Host.Cell) : Bool :=
  decide (0x1000 ≤ x.1) && decide (x.1 < 0x1000 + 4 * 1089) && decide (x.1 % 4 = 0) &&
    (x.2 == colourByte .light || x.2 == colourByte .dark)

/-- The invariant of the machine: what R26, R27, R30, R33, R34, R35, R37 and R206 promise of every state. -/
structure Inv (s : State) : Prop where
  /-- The memory is in canonical form. -/
  memWf : Memory.wf s.mem
  /-- No cell holds 0b01, and only cells are listed (R30, R37). -/
  memLegal : ∀ x ∈ s.mem, legalCell x = true
  /-- BEST_SCORE and MASKID hold 0 while VALID = 0 (R27, R37). -/
  trackerEmpty : s.bestValid = false → s.bestScore = 0 ∧ s.bestMaskId = 0
  /-- The tracker's score is a total that SCORE can produce (R206). -/
  bestBound : s.bestScore.toNat ≤ 71218
  /-- TOTAL is the exact sum of the four penalties, with no wrap-around (R26, R206). -/
  totalExact : s.total.toNat = s.p1Run.toNat + s.p2Block.toNat + s.p3Finder.toNat + s.p4Balance.toNat
  /-- The bounds of R206. -/
  penaltyBounds : s.p1Run.toNat ≤ 2046 ∧ s.p2Block.toNat ≤ 3072 ∧ s.p3Finder.toNat ≤ 66000 ∧ s.p4Balance.toNat ≤ 100
  /-- DARK_COUNT counts cells of the corner. -/
  darkBound : s.darkCount.toNat ≤ 1089
  /-- The counters of PLACE: at most one bit for each position of the longest walk (R28, R176). -/
  placeBound : s.placeConsumed.toNat + s.placeDefaulted.toNat ≤ 1056
  /-- The stream of a PLACE has at most 800 bits (R97, R173). -/
  consumedBound : s.placeConsumed.toNat ≤ 800
  /-- No walker and no scorer state between commands (R33, R34). -/
  hiddenIdle : s.walker = none ∧ s.scorer = none
  /-- No command is accepted while the reset clear runs (R24, R270). -/
  clearAlone : s.clearing = true → s.pending = none

/-- A host move that follows the conformance rule of 30_encoding.md R101 and 70_reset_and_hazards.md R275, R276: no write while
BUSY = 1, and only exact reads. -/
def safeMove (s : State) : Event → Bool
  | .read a => !busy s || exactWhileBusy (locate a)
  | .write _ _ => !busy s
  | .reset | .resetStart | .engine => true

/-- The next move of the machine is a safe one. -/
def SafeNext (s : State) : Bool := safeMove s (nextEvent s)

/-- Bus accesses only: reads and writes. -/
def isAccess : Event → Bool
  | .read _ | .write _ _ => true
  | .reset | .resetStart | .engine => false

/-- A write access. -/
def isWrite : Event → Bool
  | .write _ _ => true
  | .read _ | .reset | .resetStart | .engine => false

end Sys2Proof.Machine
end

