-- ==== Sys2Proof/Certificates/Slice0/Obligations.lean ====
section
/-! DEFINITION. The statements about QRCORE that the provers are asked to prove. Each docstring names the rules of spec/ it rests on. -/

open Sys2Proof Sys2Proof.Machine

/-! ### Encoding (30_encoding.md) -/

/-- R91, R94: decoding the word of a well-formed command gives the command back, with every operand at every value its field
admits. -/
def Obligations.DecodeAfterEncode : Prop :=
  ∀ i : Instr, WellFormed i → decode (encode i) = .ok i

/-- R90, R91, R94: a word that decodes to a command is that command's one word, and the command is well formed. -/
def Obligations.EncodeAfterDecode : Prop :=
  ∀ (w : Word) (i : Instr), decode w = .ok i → WellFormed i ∧ encode i = w

/-- R93: legal(w) says which words are commands; an illegal word completes with ERR_OPCODE and has no other effect. -/
def Obligations.IllegalWordsCompleteWithOpcodeError : Prop :=
  ∀ w : Word,
    (legalWord w → ∃ i, decode w = .ok i) ∧
    (¬ legalWord w → ∀ s : State, nextEvent s = .engine → s.clearing = false → s.pending = some w →
      step s = .next { s with
        events := s.events.tail, err := .opcode, stickyErr := true, pending := none, walker := none, scorer := none })

/-- R102: the encoding examples. -/
def Obligations.SpecEncodingExamples : Prop :=
  decode 0x20070013 = .ok (.rsenc 19 7) ∧ decode 0x200A0010 = .ok (.rsenc 16 10) ∧
  decode 0x3000101A = .ok (.place 1 0 26) ∧ decode 0x30001F1A = .ok (.place 1 15 26) ∧
  decode 0x30004764 = .ok (.place 4 7 100) ∧ decode 0x40001000 = .ok (.score 1 0) ∧
  decode 0x40004F00 = .ok (.score 4 15) ∧
  (∀ i, decode 0x60000000 ≠ .ok i) ∧ (∀ i, decode 0x00000001 ≠ .ok i)

/-! ### The step and the command lifecycle (40_control.md) -/

/-- R121, R123: at the engine's turn, with a pending word that decodes to i, the step is exec of i, the turn taken off the list. -/
def Obligations.StepRunsTheDecodedCommand : Prop :=
  ∀ (s : State) (w : Word) (i : Instr),
    nextEvent s = .engine → s.clearing = false → s.pending = some w → decode w = .ok i →
      step s = exec i { s with events := s.events.tail }

/-- R6, R72: the step performs the next move of the list: a host read, a host write, a reset, or the engine's turn, which is also what
an empty list means. The list and the turn of an empty list are the model's own (log entries 1 and 2). -/
def Obligations.StepPerformsTheNextMove : Prop :=
  ∀ (s : State) (rest : List Event),
    (∀ a, s.events = .read a :: rest → step s = .next (hostRead a { s with events := rest })) ∧
    (∀ a v, s.events = .write a v :: rest → step s = .next (hostWrite a v { s with events := rest })) ∧
    (s.events = .reset :: rest → step s = .next (resetState { s with events := rest })) ∧
    (s.events = .resetStart :: rest → step s = .next (resetStartState { s with events := rest })) ∧
    (s.events = .engine :: rest → step s = engineTurn { s with events := rest }) ∧
    (s.events = [] → step s = engineTurn s)

/-- R253, R270: the engine's turn when no command is pending. While BUSY = 0 it changes nothing but that the turn is taken off the list
(an idle turn is the model's, log entry 2). While the clear after a reset runs (the model's step of its own, log entry 6) it leaves
every cell UNASSIGNED and BUSY = 0, and keeps every other field, OVR included, and in a legal state every address that is no cell's. -/
def Obligations.EngineTurnWithoutCommand : Prop :=
  ∀ s : State, nextEvent s = .engine →
    (busy s = false → step s = .next { s with events := s.events.tail }) ∧
    (s.clearing = true → s.pending = none →
      ∃ t, step s = .next t ∧ (statusWord t).getLsbD 0 = false ∧
        (∀ r c, r < 33 → c < 33 → cellAt t.mem r c = .unassigned) ∧
        (∀ a, (∀ r c, r < 33 → c < 33 → a ≠ cellAddr r c) → Inv s → t.mem.read a = s.mem.read a) ∧
        t = { s with events := s.events.tail, mem := t.mem, clearing := false })

/-- R70, R121, R246: no move of any agent stops the machine: every state has a next state. -/
def Obligations.EveryStateHasNextState : Prop :=
  ∀ s : State, ∃ t, step s = .next t

/-- R124: NOP. Its word, the words of its opcode that are illegal, and all it changes: ERR to 0, whatever it was, STICKY_ERR and OVR
kept. -/
def Obligations.NopClearsErrAndNothingElse : Prop :=
  encode .nop = 0x00000000 ∧ decode 0x00000000 = .ok .nop ∧
  (∀ w : Word, w.extractLsb 31 28 = 0x0 → w.extractLsb 27 0 ≠ 0 →
    ∀ s, executeWord w s = .next { s with
      err := .opcode, stickyErr := true, pending := none, walker := none, scorer := none }) ∧
  ∀ s : State, exec .nop s = .next { s with err := .ok, pending := none, walker := none, scorer := none }

/-- R125: CLRG. All 1089 cells read UNASSIGNED after it, whatever the grid held, and nothing else changes but STATUS. -/
def Obligations.ClrgClearsEveryCell : Prop :=
  encode .clrg = 0x10000000 ∧ decode 0x10000000 = .ok .clrg ∧
  (∀ w : Word, w.extractLsb 31 28 = 0x1 → w.extractLsb 27 0 ≠ 0 →
    ∀ s, executeWord w s = .next { s with
      err := .opcode, stickyErr := true, pending := none, walker := none, scorer := none }) ∧
  ∀ s : State, ∃ t, exec .clrg s = .next t ∧
    (∀ r c, r < 33 → c < 33 → cellAt t.mem r c = .unassigned) ∧
    (∀ a, (∀ r c, r < 33 → c < 33 → a ≠ cellAddr r c) → Inv s → t.mem.read a = s.mem.read a) ∧
    t = { s with mem := t.mem, err := .ok, pending := none, walker := none, scorer := none }

/-- R126: CLRBEST. BEST_SCORE and BEST_MASK to 0; the penalty registers are kept, as everything but STATUS. -/
def Obligations.ClrbestEmptiesTheTracker : Prop :=
  encode .clrbest = 0x50000000 ∧ decode 0x50000000 = .ok .clrbest ∧
  (∀ w : Word, w.extractLsb 31 28 = 0x5 → w.extractLsb 27 0 ≠ 0 →
    ∀ s, executeWord w s = .next { s with
      err := .opcode, stickyErr := true, pending := none, walker := none, scorer := none }) ∧
  ∀ s : State, ∃ t, exec .clrbest s = .next t ∧ t.bestScore = 0 ∧ bestMaskWord t = 0 ∧
    t = { s with
      bestScore := 0, bestValid := false, bestMaskId := 0, err := .ok, pending := none, walker := none, scorer := none }

/-- R73, R121, R275, R276: a command accepted while the block is idle runs on the state of its acceptance. Whatever reads and writes
the host performs while it is pending, the step that follows them gives what executing the word at once would have given, but for
OVR, set exactly when a write came, and the model's own bookkeeping of reads and draws. The last step is the engine's turn of the empty
list, which is the model's choice (log entry 2). -/
def Obligations.PendingCommandRunsOnItsAcceptanceState : Prop :=
  ∀ (s : State) (a : Addr) (w : Word) (accesses : List Event),
    busy s = false → wordAddr a = 0x004 → accesses.all isAccess = true →
    s.events = .write a w :: accesses →
    ∃ t u, core.run (accesses.length + 2) s = .next t ∧
      executeWord w { s with events := [], pending := some w } = .next u ∧
      t = { u with ovr := s.ovr || accesses.any isWrite, reads := t.reads, draws := t.draws }

/-! ### Errors (60_exceptions.md) -/

/-- R243: one code for each command, the first failing check in the fixed order: opcode, version, ECC length, range, unassigned. -/
def Obligations.CommandReportsFirstFailingCheck : Prop :=
  ∀ (s : State) (w : Word), nextEvent s = .engine → s.clearing = false → s.pending = some w →
    ∃ t, step s = .next t ∧
      t.err = (match decode w with
        | .ok i => firstFailure s i
        | .error _ => .opcode)

/-- R241: a command that ends with an error changes exactly ERR and STICKY_ERR (and is no longer pending). -/
def Obligations.FailingCommandChangesOnlyStatus : Prop :=
  ∀ (s t : State) (w : Word), executeWord w s = .next t → t.err ≠ .ok →
    t = { s with err := t.err, stickyErr := true, pending := none, walker := none, scorer := none }

/-- R78, R36, R37: what each command may touch. Everything not named for it is unchanged, and so is every byte of memory that it does
not store to: for CLRG, in a legal state, every address that is no grid cell's. That RSENC keeps the hidden REM from entry E on is the
model's choice (log entry 7) and no word of these rules. -/
def Obligations.CommandsTouchOnlyTheirTable : Prop :=
  ∀ (i : Instr) (s t : State), exec i s = .next t →
    match i with
    | .nop =>
      t = { s with err := t.err, stickyErr := t.stickyErr, pending := none, walker := none, scorer := none }
    | .clrg =>
      t = { s with
        mem := t.mem, err := t.err, stickyErr := t.stickyErr, pending := none, walker := none, scorer := none } ∧
      (∀ a, (∀ r c, r < 33 → c < 33 → a ≠ cellAddr r c) → Inv s → t.mem.read a = s.mem.read a)
    | .rsenc k e =>
      t = { s with
        cw := t.cw, rem := t.rem, err := t.err, stickyErr := t.stickyErr, pending := none, walker := none,
        scorer := none } ∧
      (∀ j, j < k ∨ k + e ≤ j → bufferGet t.cw j = bufferGet s.cw j) ∧
      (∀ j, e ≤ j → bufferGet t.rem j = bufferGet s.rem j)
    | .place ver _ _ =>
      t = { s with
        mem := t.mem, placeConsumed := t.placeConsumed, placeDefaulted := t.placeDefaulted, err := t.err,
        stickyErr := t.stickyErr, pending := none, walker := none, scorer := none } ∧
      (∀ a, (∀ pos ∈ walk (sideLength ver), cellAt s.mem pos.1 pos.2 = .unassigned → a ≠ cellAddr pos.1 pos.2) →
        t.mem.read a = s.mem.read a)
    | .score _ _ =>
      t = { s with
        p1Run := t.p1Run, p2Block := t.p2Block, p3Finder := t.p3Finder, p4Balance := t.p4Balance, total := t.total,
        darkCount := t.darkCount, bestScore := t.bestScore, bestValid := t.bestValid, bestMaskId := t.bestMaskId,
        err := t.err, stickyErr := t.stickyErr, pending := none, walker := none, scorer := none }
    | .clrbest =>
      t = { s with
        bestScore := t.bestScore, bestValid := t.bestValid, bestMaskId := t.bestMaskId, err := t.err,
        stickyErr := t.stickyErr, pending := none, walker := none, scorer := none }

/-! ### Reed-Solomon encoder (41_rs_encoder.md) -/

/-- R148: RSENC with a legal E and K + E ≤ 100 stores the ECC codewords of CW[0..K-1] in CW[K..K+E-1]; every other entry and every
register but STATUS is kept. REM is hidden (R32): that it holds the remainder after the command, and that REM[E..19] is kept, is the
model's choice (log entry 7). -/
def Obligations.RsencStoresTheEccCodewords : Prop :=
  ∀ (k e : Nat) (s : State), e ∈ [7, 10, 15, 20] → k + e ≤ 100 →
    ∃ t, exec (.rsenc k e) s = .next t ∧
      (∀ i, i < e → bufferGet t.cw (k + i) = (rsRemainder Config.hw (bufferTake s.cw k) e).getD i 0) ∧
      (∀ j, j < 100 → j < k ∨ k + e ≤ j → bufferGet t.cw j = bufferGet s.cw j) ∧
      (∀ i, i < 20 → bufferGet t.rem i =
        if i < e then (rsRemainder Config.hw (bufferTake s.cw k) e).getD i 0 else bufferGet s.rem i) ∧
      t = { s with cw := t.cw, rem := t.rem, err := .ok, pending := none, walker := none, scorer := none }

/-- R146, R147: the division circuit computes the remainder of D(x)·x^E by the generator: data and remainder together are a multiple of
the generator polynomial, and the remainder has E coefficients. -/
def Obligations.DivisionCircuitComputesThePolynomialRemainder : Prop :=
  ∀ (data : List Byte) (e : Nat), e ∈ [7, 10, 15, 20] →
    (rsRemainder Config.hw data e).length = e ∧
    ∃ q : List Byte, q.length = data.length ∧
      polyMul Config.hw q (1 :: generatorRom Config.hw e) = data ++ rsRemainder Config.hw data e

/-- R144, R147: after a good RSENC the codewords CW[0..K+E-1], read as a polynomial, are 0 at each root α^0 to α^(E-1). -/
def Obligations.EncodedCodewordsVanishAtTheRoots : Prop :=
  ∀ (k e : Nat) (s : State), e ∈ [7, 10, 15, 20] → k + e ≤ 100 →
    ∃ t, exec (.rsenc k e) s = .next t ∧
      ∀ j, j < e → polyEval Config.hw (alphaPow Config.hw j) (bufferTake t.cw (k + e)) = 0

/-- R148 (corner case): the map from data to ECC is linear. -/
def Obligations.EccIsLinear : Prop :=
  ∀ (d d' : List Byte) (e : Nat), e ∈ [7, 10, 15, 20] → d.length = d'.length →
    rsRemainder Config.hw (polyAdd d d') e = polyAdd (rsRemainder Config.hw d e) (rsRemainder Config.hw d' e)

/-- R148 (corner cases): no data and all-zero data give zero ECC, leading zeros change nothing, the data [1] gives the generator's
coefficients. -/
def Obligations.EccCornerCases : Prop :=
  ∀ e ∈ [7, 10, 15, 20],
    rsRemainder Config.hw [] e = List.replicate e 0#8 ∧
    (∀ k, rsRemainder Config.hw (List.replicate k 0#8) e = List.replicate e 0#8) ∧
    (∀ k d, rsRemainder Config.hw (List.replicate k 0#8 ++ d) e = rsRemainder Config.hw d e) ∧
    rsRemainder Config.hw [1] e = generatorRom Config.hw e

/-- R144, R145: the ROM, computed from GF_POLY, GF_ALPHA and GEN_B, holds the values that R145 prints, and they are, below the leading
1, the product of the E factors x + α^j. -/
def Obligations.GeneratorRomIsTheProductOfRoots : Prop :=
  ∀ e ∈ [7, 10, 15, 20],
    generatorRom Config.hw e = printedRom e ∧ rootProduct Config.hw e = 1 :: printedRom e

/-- R142: the printed tables. EXP[0] = 1, each entry is the one before times α, and LOG inverts EXP on the 255 non-zero bytes. -/
def Obligations.PrintedTablesArePowersOfAlpha : Prop :=
  gfExp 0 = 0x01 ∧ (∀ i, i < 254 → gfExp (i + 1) = gfMul Config.hw (gfExp i) 0x02) ∧
  (∀ i, i < 255 → gfLog (gfExp i) = i) ∧ (∀ a : Byte, a ≠ 0 → gfLog a < 255 ∧ gfExp (gfLog a) = a)

/-- R143: multiplication through the printed tables equals the shift-and-reduce multiplication, for all pairs, with the rule's
examples. -/
def Obligations.TableMultiplicationEqualsShiftAndReduce : Prop :=
  (∀ a b : Byte, gfMul Config.hw a b = gfMulByTables a b) ∧
  gfMul Config.hw 0x02 0x80 = 0x1D ∧ gfMul Config.hw 0x53 0xCA = 0x8F ∧ gfMul Config.hw 0xFF 0xFF = 0xE2 ∧
  gfMul Config.hw 0x03 0x07 = 0x09

/-- R140, R141: with exclusive-or as addition, gf_mul is commutative and associative, distributes over addition, and has unit 1; and
every non-zero byte has an inverse. -/
def Obligations.FieldLaws : Prop :=
  (∀ a b : Byte, gfMul Config.hw a b = gfMul Config.hw b a) ∧
  (∀ a b c : Byte, gfMul Config.hw (gfMul Config.hw a b) c = gfMul Config.hw a (gfMul Config.hw b c)) ∧
  (∀ a b c : Byte, gfMul Config.hw a (gfAdd b c) = gfAdd (gfMul Config.hw a b) (gfMul Config.hw a c)) ∧
  (∀ a : Byte, gfMul Config.hw a 1 = a) ∧
  (∀ a : Byte, a ≠ 0 → ∃ b, gfMul Config.hw a b = 1)

/-! ### Bit placer (42_bit_placer.md) -/

/-- R173: the stream of L codewords is their bits, bytes in buffer order, each most significant bit first; it has 8·L bits. -/
def Obligations.StreamIsMostSignificantBitFirst : Prop :=
  ∀ (cw : Vector Byte 100) (l : Nat), l ≤ 100 →
    (List.range (8 * l)).map (streamBit cw) =
      (bufferTake cw l).flatMap fun b =>
        [b.getLsbD 7, b.getLsbD 6, b.getLsbD 5, b.getLsbD 4, b.getLsbD 3, b.getLsbD 2, b.getLsbD 1, b.getLsbD 0]

/-- R170, R171: the six-by-six pictures of the eight masks, the eight formulas at every row and column, and no masking for 8 to 15. -/
def Obligations.MaskPictures : Prop :=
  let picture (mask : Nat) : List (List Nat) :=
    (List.range 6).map fun r => (List.range 6).map fun c => (maskOn mask r c).toNat
  picture 0 = [[1,0,1,0,1,0], [0,1,0,1,0,1], [1,0,1,0,1,0], [0,1,0,1,0,1], [1,0,1,0,1,0], [0,1,0,1,0,1]] ∧
  picture 1 = [[1,1,1,1,1,1], [0,0,0,0,0,0], [1,1,1,1,1,1], [0,0,0,0,0,0], [1,1,1,1,1,1], [0,0,0,0,0,0]] ∧
  picture 2 = [[1,0,0,1,0,0], [1,0,0,1,0,0], [1,0,0,1,0,0], [1,0,0,1,0,0], [1,0,0,1,0,0], [1,0,0,1,0,0]] ∧
  picture 3 = [[1,0,0,1,0,0], [0,0,1,0,0,1], [0,1,0,0,1,0], [1,0,0,1,0,0], [0,0,1,0,0,1], [0,1,0,0,1,0]] ∧
  picture 4 = [[1,1,1,0,0,0], [1,1,1,0,0,0], [0,0,0,1,1,1], [0,0,0,1,1,1], [1,1,1,0,0,0], [1,1,1,0,0,0]] ∧
  picture 5 = [[1,1,1,1,1,1], [1,0,0,0,0,0], [1,0,0,1,0,0], [1,0,1,0,1,0], [1,0,0,1,0,0], [1,0,0,0,0,0]] ∧
  picture 6 = [[1,1,1,1,1,1], [1,1,1,0,0,0], [1,1,0,1,1,0], [1,0,1,0,1,0], [1,0,1,1,0,1], [1,0,0,0,1,1]] ∧
  picture 7 = [[1,0,1,0,1,0], [0,0,0,1,1,1], [1,0,0,0,1,1], [0,1,0,1,0,1], [1,1,1,0,0,0], [0,1,1,1,0,0]] ∧
  (∀ row col : Nat,
    (maskOn 0 row col = true ↔ (row + col) % 2 = 0) ∧
    (maskOn 1 row col = true ↔ row % 2 = 0) ∧
    (maskOn 2 row col = true ↔ col % 3 = 0) ∧
    (maskOn 3 row col = true ↔ (row + col) % 3 = 0) ∧
    (maskOn 4 row col = true ↔ (row / 2 + col / 3) % 2 = 0) ∧
    (maskOn 5 row col = true ↔ (row * col) % 2 + (row * col) % 3 = 0) ∧
    (maskOn 6 row col = true ↔ ((row * col) % 2 + (row * col) % 3) % 2 = 0) ∧
    (maskOn 7 row col = true ↔ ((row + col) % 2 + (row * col) % 3) % 2 = 0)) ∧
  ∀ mask r c, 8 ≤ mask → maskOn mask r c = false

/-- R174, R175, R176: the walk of version v visits each cell of the S×S corner outside column 6 exactly once, and no other cell: S·(S-1)
positions. Their order: strip t (from 1, at the right) holds the positions 2·S·(t-1) to 2·S·t - 1, two for each row, the right column
first; the rows go up from S-1 when t is odd and down from 0 when t is even. -/
def Obligations.WalkVisitsEachFreeColumnCellOnce : Prop :=
  ∀ ver ∈ [1, 2, 3, 4],
    (walk (sideLength ver)).length = sideLength ver * (sideLength ver - 1) ∧
    (walk (sideLength ver)).Nodup ∧
    (∀ r c, (r, c) ∈ walk (sideLength ver) ↔ r < sideLength ver ∧ c < sideLength ver ∧ c ≠ 6) ∧
    let side := 4 * ver + 17
    ∀ t k, 1 ≤ t → t ≤ (side - 1) / 2 → k < side →
      let row := if t % 2 = 1 then side - 1 - k else k
      let right := if t ≤ (side - 7) / 2 then side + 1 - 2 * t else side - 2 * t
      (walk side)[2 * side * (t - 1) + 2 * k]? = some (row, right) ∧
      (walk side)[2 * side * (t - 1) + 2 * k + 1]? = some (row, right - 1)

/-- R177, R178, R179: what a good PLACE leaves. The data module at walk position j, with n data modules before it, takes stream bit n
or, past the stream, the default bit 0, inverted where the mask is true (default bits too on this hardware); a structural cell is
kept; the counters hold the stream bits painted and the default bits painted. Everything else but STATUS is kept. -/
def Obligations.PlacePaintsTheDataModulesInWalkOrder : Prop :=
  ∀ (ver mask l : Nat) (s : State), ver ∈ [1, 2, 3, 4] → l ≤ 100 →
    ∃ t, exec (.place ver mask l) s = .next t ∧
      (∀ (j : Nat) (hj : j < (walk (sideLength ver)).length),
        let r := ((walk (sideLength ver))[j]).1
        let c := ((walk (sideLength ver))[j]).2
        let n := freeModules s.mem ((walk (sideLength ver)).take j)
        let bit := decide (n < 8 * l) && streamBit s.cw n
        cellAt t.mem r c =
          if cellAt s.mem r c = .unassigned then (if bit ^^ maskOn mask r c then .dark else .light)
          else cellAt s.mem r c) ∧
      (∀ a, (∀ pos ∈ walk (sideLength ver), cellAt s.mem pos.1 pos.2 = .unassigned → a ≠ cellAddr pos.1 pos.2) →
        t.mem.read a = s.mem.read a) ∧
      t.placeConsumed.toNat = min (8 * l) (freeModules s.mem (walk (sideLength ver))) ∧
      t.placeDefaulted.toNat = freeModules s.mem (walk (sideLength ver)) - 8 * l ∧
      t = { s with
        mem := t.mem, placeConsumed := t.placeConsumed, placeDefaulted := t.placeDefaulted, err := .ok,
        pending := none, walker := none, scorer := none }

/-- R28: a good PLACE writes both counters, and their sum is the number of UNASSIGNED cells that the walk reached. -/
def Obligations.PlaceCountersSumToTheDataModules : Prop :=
  ∀ (ver mask l : Nat) (s t : State), exec (.place ver mask l) s = .next t → t.err = .ok →
    t.placeConsumed.toNat + t.placeDefaulted.toNat = freeModules s.mem (walk (sideLength ver))

/-- R172, R181: a cell that is LIGHT or DARK before a PLACE keeps its code, whether the PLACE succeeds or fails; after a good PLACE
every UNASSIGNED cell of the corner outside column 6 has become LIGHT or DARK. -/
def Obligations.PlaceKeepsStructuralModules : Prop :=
  ∀ (ver mask l : Nat) (s t : State), exec (.place ver mask l) s = .next t →
    (∀ r c, r < 33 → c < 33 → cellAt s.mem r c ≠ .unassigned → cellAt t.mem r c = cellAt s.mem r c) ∧
    (t.err = .ok → ∀ r c, r < sideLength ver → c < sideLength ver → c ≠ 6 → cellAt t.mem r c ≠ .unassigned)

/-- R180: PLACE leaves every cell of column 6 and every cell outside S×S as it was, and a column-6 cell left UNASSIGNED makes a later
SCORE of that version fail with ERR_UNASSIGNED. -/
def Obligations.PlaceNeverReachesColumnSix : Prop :=
  ∀ (ver mask l : Nat) (s t : State), ver ∈ [1, 2, 3, 4] → exec (.place ver mask l) s = .next t →
    (∀ r c, r < 33 → c < 33 → c = 6 ∨ sideLength ver ≤ r ∨ sideLength ver ≤ c →
      cellAt t.mem r c = cellAt s.mem r c) ∧
    (∀ r m, r < sideLength ver → cellAt s.mem r 6 = .unassigned →
      ∃ u, exec (.score ver m) t = .next u ∧ u.err = .unassigned)

/-- R183: with MASK in 8..15 every data module's colour is its stream bit, or LIGHT for a default bit. -/
def Obligations.UnmaskedPlaceShowsTheStream : Prop :=
  ∀ (ver mask l : Nat) (s t : State), 8 ≤ mask → mask ≤ 15 → exec (.place ver mask l) s = .next t → t.err = .ok →
    ∀ (j : Nat) (hj : j < (walk (sideLength ver)).length),
      let r := ((walk (sideLength ver))[j]).1
      let c := ((walk (sideLength ver))[j]).2
      let n := freeModules s.mem ((walk (sideLength ver)).take j)
      cellAt s.mem r c = .unassigned →
        (n < 8 * l → (cellAt t.mem r c = .dark ↔ streamBit s.cw n = true) ∧ cellAt t.mem r c ≠ .unassigned) ∧
        (8 * l ≤ n → cellAt t.mem r c = .light)

/-- R178 (corner case): a second PLACE of the same version, with any mask and any legal L, changes no cell and writes 0 to both
counters. -/
def Obligations.SecondPlaceChangesNoCell : Prop :=
  ∀ (ver mask l mask' l' : Nat) (s t : State), exec (.place ver mask l) s = .next t → t.err = .ok → l' ≤ 100 →
    exec (.place ver mask' l') t = .next { t with
      placeConsumed := 0, placeDefaulted := 0, err := .ok, pending := none, walker := none, scorer := none }

/-! ### Penalty scorer (43_penalty_scorer.md) -/

/-- R207, R208: a good SCORE writes the four penalties of the finished corner, their sum and the dark count, and gives the tracker
the candidate; everything else but STATUS is kept. -/
def Obligations.ScoreWritesResultsAndTracker : Prop :=
  ∀ (ver mask : Nat) (s : State), ver ∈ [1, 2, 3, 4] →
    (∀ r c, r < sideLength ver → c < sideLength ver → cellAt s.mem r c ≠ .unassigned) →
    let side := sideLength ver
    let p := (List.range side).map fun r => (List.range side).map fun c => decide (cellAt s.mem r c = .dark)
    let total : Word := BitVec.ofNat 32 (penaltyRuns p side + penaltyBlocks p side + penaltyFinder p side + penaltyBalance p side)
    let better : Prop := mask ≤ 7 ∧
      (s.bestValid = false ∨ total < s.bestScore ∨ (total = s.bestScore ∧ mask < s.bestMaskId.toNat))
    ∃ t, exec (.score ver mask) s = .next t ∧
      t.p1Run = BitVec.ofNat 32 (penaltyRuns p side) ∧ t.p2Block = BitVec.ofNat 32 (penaltyBlocks p side) ∧
      t.p3Finder = BitVec.ofNat 32 (penaltyFinder p side) ∧ t.p4Balance = BitVec.ofNat 32 (penaltyBalance p side) ∧
      t.total = total ∧ t.darkCount = BitVec.ofNat 32 (darkCells p) ∧
      (better → t.bestScore = total ∧ t.bestValid = true ∧ t.bestMaskId = BitVec.ofNat 3 mask) ∧
      (¬ better → t.bestScore = s.bestScore ∧ t.bestValid = s.bestValid ∧ t.bestMaskId = s.bestMaskId) ∧
      t = { s with
        p1Run := t.p1Run, p2Block := t.p2Block, p3Finder := t.p3Finder, p4Balance := t.p4Balance, total := t.total,
        darkCount := t.darkCount, bestScore := t.bestScore, bestValid := t.bestValid, bestMaskId := t.bestMaskId,
        err := .ok, pending := none, walker := none, scorer := none }

/-- R200: a SCORE of a corner with an UNASSIGNED cell fails with ERR_UNASSIGNED and writes nothing but STATUS. -/
def Obligations.ScoreRefusesUnfinishedGrid : Prop :=
  ∀ (ver mask r c : Nat) (s : State), ver ∈ [1, 2, 3, 4] → r < sideLength ver → c < sideLength ver →
    cellAt s.mem r c = .unassigned →
    exec (.score ver mask) s = .next { s with
      err := .unassigned, stickyErr := true, pending := none, walker := none, scorer := none }

/-- R201: the counting scan gives each maximal run of R ≥ 5 modules R - 2 points, and shorter runs none. -/
def Obligations.RunPenaltyIsSumOverMaximalRuns : Prop :=
  ∀ x : List Bool, runPenalty x = ((maximalRuns x).map fun len => if 5 ≤ len then len - 2 else 0).sum

/-- R204: the KMP matcher, which falls back to the longest prefix of the pattern that ends the input seen so far, gives exactly the
window count, for both patterns on every line. -/
def Obligations.MatcherCountsExactly : Prop :=
  ∀ y : List Bool,
    matcherCount finderForward 0 y = occurrences finderForward y ∧
    matcherCount finderReverse 0 y = occurrences finderReverse y

/-- R201: over the colours of any grid, rule 1 adds, for each row and for each column, R - 2 for every maximal run of R ≥ 5 modules. -/
def Obligations.RunPenaltySumsRowsAndColumns : Prop :=
  ∀ (m : Memory) (side : Nat),
    let dark (r c : Nat) : Bool := decide (cellAt m r c = .dark)
    let p := (List.range side).map fun r => (List.range side).map fun c => dark r c
    let points (line : List Bool) : Nat := ((maximalRuns line).map fun len => if 5 ≤ len then len - 2 else 0).sum
    penaltyRuns p side =
      ((List.range side).map fun r => points ((List.range side).map fun c => dark r c)).sum +
      ((List.range side).map fun c => points ((List.range side).map fun r => dark r c)).sum

/-- R202: over the colours of any grid, rule 2 adds 3 for each 2×2 window (top-left corner at r, c ≤ S-2) whose four modules have one
colour; windows may overlap. -/
def Obligations.BlockPenaltyCountsWindows : Prop :=
  ∀ (m : Memory) (side : Nat),
    let dark (r c : Nat) : Bool := decide (cellAt m r c = .dark)
    let p := (List.range side).map fun r => (List.range side).map fun c => dark r c
    penaltyBlocks p side =
      3 * ((Finset.range (side - 1) ×ˢ Finset.range (side - 1)).filter fun x =>
        dark x.1 x.2 = dark x.1 (x.2 + 1) ∧ dark x.1 x.2 = dark (x.1 + 1) x.2 ∧
        dark x.1 x.2 = dark (x.1 + 1) (x.2 + 1)).card

/-- R203, R204: over the colours of any grid, rule 3 adds 40 for each position 0 to S-9 of each row and each column, padded with one
light module at either end, at which the eleven modules equal FWD, and as much for REV. -/
def Obligations.FinderPenaltyCountsWindows : Prop :=
  ∀ (m : Memory) (side : Nat),
    let dark (r c : Nat) : Bool := decide (cellAt m r c = .dark)
    let p := (List.range side).map fun r => (List.range side).map fun c => dark r c
    let padded (line : List Bool) : List Bool := [false] ++ line ++ [false]
    let occ (pattern line : List Bool) : Nat :=
      ((Finset.range (side - 8)).filter fun i => ((padded line).drop i).take 11 = pattern).card
    let both (line : List Bool) : Nat :=
      occ [false, false, false, false, true, false, true, true, true, false, true] line +
      occ [true, false, true, true, true, false, true, false, false, false, false] line
    penaltyFinder p side =
      40 * (((List.range side).map fun r => both ((List.range side).map fun c => dark r c)).sum +
        ((List.range side).map fun c => both ((List.range side).map fun r => dark r c)).sum)

/-- R205: over the colours of any grid, D is the number of DARK cells (r, c) with r, c < S, and rule 4 is its closed form on N = S². -/
def Obligations.BalancePenaltyCountsDarkCells : Prop :=
  ∀ (m : Memory) (side : Nat),
    let p := (List.range side).map fun r => (List.range side).map fun c => decide (cellAt m r c = .dark)
    let d := ((Finset.range side ×ˢ Finset.range side).filter fun x => cellAt m x.1 x.2 = .dark).card
    darkCells p = d ∧
    penaltyBalance p side =
      if 10 ≤ 20 * d / (side * side) then 10 * (20 * d / (side * side) - 10) else 10 * (9 - 20 * d / (side * side))

/-- R205: the source's subtraction procedure equals the closed form, for every D from 0 to N, the result is at most
100, D = N gives 100 and D = 0 gives 90. -/
def Obligations.BalanceProcedureEqualsClosedForm : Prop :=
  ∀ d n : Nat, 0 < n → d ≤ n →
    balanceProcedure d n = balancePenalty d n ∧ balancePenalty d n ≤ 100 ∧
    balancePenalty n n = 100 ∧ balancePenalty 0 n = 90

/-- R206: the bounds on the four penalties and the total of any S×S picture of a legal version, so that the 32-bit TOTAL is their exact
sum. -/
def Obligations.PenaltiesStayInBounds : Prop :=
  ∀ (ver : Nat) (p : List (List Bool)), ver ∈ [1, 2, 3, 4] → p.length = sideLength ver →
    (∀ row ∈ p, row.length = sideLength ver) →
    penaltyRuns p (sideLength ver) ≤ 2 * sideLength ver * (sideLength ver - 2) ∧
    penaltyBlocks p (sideLength ver) ≤ 3 * (sideLength ver - 1) ^ 2 ∧
    penaltyFinder p (sideLength ver) ≤ 40 * (2 * sideLength ver * (sideLength ver - 8)) ∧
    penaltyBalance p (sideLength ver) ≤ 100 ∧
    penaltyTotal p (sideLength ver) ≤ 71218 ∧
    (BitVec.ofNat 32 (penaltyTotal p (sideLength ver))).toNat =
      penaltyRuns p (sideLength ver) + penaltyBlocks p (sideLength ver) + penaltyFinder p (sideLength ver) +
        penaltyBalance p (sideLength ver)

/-- R207: after CLRBEST, whatever the order of the candidates, the tracker holds the lowest mask id among those of least total; with
no candidate of mask id 0 to 7 it stays empty. -/
def Obligations.TrackerHoldsLowestMaskOfLeastTotal : Prop :=
  ∀ (candidates : List (Nat × Word)) (s : State),
    let t := candidates.foldl (fun u x => updateBest x.1 x.2 u) (clearBest s)
    ((∃ x ∈ candidates, x.1 ≤ 7) →
      t.bestValid = true ∧ (t.bestMaskId.toNat, t.bestScore) ∈ candidates ∧
      ∀ x ∈ candidates, x.1 ≤ 7 → t.bestScore < x.2 ∨ (t.bestScore = x.2 ∧ t.bestMaskId.toNat ≤ x.1)) ∧
    ((∀ x ∈ candidates, 7 < x.1) → t.bestValid = false ∧ t.bestScore = 0 ∧ t.bestMaskId = 0)

/-- R209: SCORE's results are a function of the S×S colours, the MASK field and the tracker's old value; PLACE's of the S×S cells,
MASK, L and CW[0..L-1]. Two states that agree on those agree on the results, whatever else they hold. -/
def Obligations.ResultsDependOnlyOnTheirInputs : Prop :=
  ∀ (s s' : State) (ver mask l : Nat),
    (∀ r c, r < sideLength ver → c < sideLength ver → cellAt s.mem r c = cellAt s'.mem r c) →
    (s.bestScore = s'.bestScore → s.bestValid = s'.bestValid → s.bestMaskId = s'.bestMaskId →
      ∀ t t', exec (.score ver mask) s = .next t → exec (.score ver mask) s' = .next t' →
        t.err = t'.err ∧ t.bestScore = t'.bestScore ∧ t.bestValid = t'.bestValid ∧ t.bestMaskId = t'.bestMaskId ∧
        (t.err = .ok →
          t.p1Run = t'.p1Run ∧ t.p2Block = t'.p2Block ∧ t.p3Finder = t'.p3Finder ∧ t.p4Balance = t'.p4Balance ∧
          t.total = t'.total ∧ t.darkCount = t'.darkCount)) ∧
    ((∀ i, i < l → bufferGet s.cw i = bufferGet s'.cw i) →
      ∀ t t', exec (.place ver mask l) s = .next t → exec (.place ver mask l) s' = .next t' →
        t.err = t'.err ∧
        (∀ r c, r < sideLength ver → c < sideLength ver → cellAt t.mem r c = cellAt t'.mem r c) ∧
        (t.err = .ok → t.placeConsumed = t'.placeConsumed ∧ t.placeDefaulted = t'.placeDefaulted))

/-! ### Bus and hazards (10_state.md, 20_memory.md, 70_reset_and_hazards.md) -/

/-- R25, R35: STATUS reads BUSY in bit 0 exactly when a command is pending or the reset clear runs, STICKY_ERR in bit 1, OVR in bit 2,
the code of R240 in bits 7:4, and 0 in every other bit. -/
def Obligations.StatusWordLayout : Prop :=
  ∀ s : State,
    ((statusWord s).getLsbD 0 = true ↔ s.pending ≠ none ∨ s.clearing = true) ∧
    (statusWord s).getLsbD 1 = s.stickyErr ∧ (statusWord s).getLsbD 2 = s.ovr ∧ (statusWord s).getLsbD 3 = false ∧
    ((statusWord s).extractLsb 7 4).toNat =
      (match s.err with
        | .ok => 0
        | .opcode => 1
        | .version => 2
        | .eccLen => 3
        | .range => 4
        | .unassigned => 5) ∧
    (statusWord s).extractLsb 31 8 = 0

/-- R22, R29, R31, R62: where the bus addresses lead. Bits 1:0 of an address do not matter. -/
def Obligations.BusAddressMap : Prop :=
  (∀ a b : Addr, a.toNat / 4 = b.toNat / 4 → locate a = locate b) ∧
  (∀ i, i < 100 → locate (BitVec.ofNat 14 (0x400 + 4 * i)) = .codeword i) ∧
  (∀ r c, r < 33 → c < 33 → locate (BitVec.ofNat 14 (0x1000 + 4 * (33 * r + c))) = .cell r c) ∧
  ([0x000, 0x004, 0x008, 0x00C, 0x010, 0x014, 0x018, 0x01C, 0x020, 0x024, 0x028, 0x02C, 0x030].map
      fun n => locate (BitVec.ofNat 14 n)) =
    [.register .id, .register .cmd, .register .status, .register .p1Run, .register .p2Block, .register .p3Finder,
      .register .p4Balance, .register .total, .register .darkCount, .register .bestScore, .register .bestMask,
      .register .placeConsumed, .register .placeDefaulted]

/-- R64: a read of an unmapped word returns 0, a write to one is ignored, and neither sets an error bit. -/
def Obligations.UnmappedWordsReadZero : Prop :=
  ∀ (s : State) (a : Addr) (v : Word),
    (0x034 ≤ a.toNat ∧ a.toNat ≤ 0x3FF) ∨ (0x590 ≤ a.toNat ∧ a.toNat ≤ 0xFFF) ∨ 0x2104 ≤ a.toNat →
    hostRead a s = { s with reads := 0 :: s.reads } ∧ (busy s = false → hostWrite a v s = s)

/-- R30, R69, R72, R277: while BUSY = 0, a read of a grid cell returns the code of the colour that the commands see in the cell, and
changes nothing in the block. A write stores the colour that bits 1 and 0 of the word select, for the commands and for the next read;
every other address of the memory is kept, and so is the rest of the machine. -/
def Obligations.GridWriteThenRead : Prop :=
  ∀ (s : State) (r c : Nat) (v : Word), busy s = false → r < 33 → c < 33 →
    let a : Addr := BitVec.ofNat 14 (cellAddr r c)
    let t := hostWrite a v s
    hostRead a s = { s with
      reads := (match cellAt s.mem r c with
        | .unassigned => 0
        | .light => 2
        | .dark => 3) :: s.reads } ∧
    (Inv s →
      cellAt t.mem r c =
        (if v.getLsbD 1 = false then .unassigned else if v.getLsbD 0 = false then .light else .dark) ∧
      hostRead a t = { t with
        reads := (if v.getLsbD 1 = false then 0 else if v.getLsbD 0 = false then 2 else 3) :: s.reads } ∧
      (∀ x, x ≠ cellAddr r c → t.mem.read x = s.mem.read x) ∧ t = { s with mem := t.mem })

/-- R31, R69, R72, R277: while BUSY = 0, a read of CW[i] returns the byte that the commands see in the entry, zero-extended, and changes
nothing in the block. A write stores bits 7:0, for the commands and for the next read; every other entry and the rest of the machine
is kept. -/
def Obligations.CodewordWriteThenRead : Prop :=
  ∀ (s : State) (i : Nat) (v : Word), busy s = false → i < 100 →
    let a : Addr := BitVec.ofNat 14 (0x400 + 4 * i)
    let t := hostWrite a v s
    hostRead a s = { s with reads := ((bufferGet s.cw i).setWidth 32) :: s.reads } ∧
    bufferGet t.cw i = v.extractLsb 7 0 ∧
    hostRead a t = { t with reads := ((v.extractLsb 7 0).setWidth 32) :: s.reads } ∧
    (∀ j, j < 100 → j ≠ i → bufferGet t.cw j = bufferGet s.cw j) ∧ t = { s with cw := t.cw }

/-- R22 to R28: a write to a register while BUSY = 0: CMD accepts the word (R120), STATUS clears the W1C bits it names and nothing else,
every other register ignores it. -/
def Obligations.RegisterWrites : Prop :=
  ∀ (s : State) (a : Addr) (v : Word), busy s = false →
    (wordAddr a = 0x004 → hostWrite a v s = { s with pending := some v }) ∧
    (wordAddr a = 0x008 → hostWrite a v s = { s with
      stickyErr := (if v.getLsbD 1 then false else s.stickyErr), ovr := (if v.getLsbD 2 then false else s.ovr) }) ∧
    (wordAddr a ≤ 0x030 → wordAddr a ≠ 0x004 → wordAddr a ≠ 0x008 → hostWrite a v s = s)

/-- R23, R26, R27, R28, R69: reads of the registers while BUSY = 0 return their values and change nothing in the block. -/
def Obligations.RegisterReads : Prop :=
  ∀ s : State, busy s = false →
    ∀ x ∈ ([(0x000, 0x51524331), (0x004, 0), (0x008, statusWord s), (0x00C, s.p1Run), (0x010, s.p2Block),
        (0x014, s.p3Finder), (0x018, s.p4Balance), (0x01C, s.total), (0x020, s.darkCount), (0x024, s.bestScore),
        (0x028, (if s.bestValid then 0x80000000 else 0) + s.bestMaskId.setWidth 32), (0x02C, s.placeConsumed),
        (0x030, s.placeDefaulted)] : List (Nat × Word)),
      hostRead (BitVec.ofNat 14 x.1) s = { s with reads := x.2 :: s.reads }

/-- R275: while BUSY = 1 every host write, to any address, is dropped and sets OVR, and changes nothing else. -/
def Obligations.BusyWriteIsDropped : Prop :=
  ∀ (s : State) (a : Addr) (v : Word) (rest : List Event), busy s = true → s.events = .write a v :: rest →
    step s = .next { s with events := rest, ovr := true }

/-- R276: while BUSY = 1, STATUS, ID, CMD and unmapped words read exactly; a read of any other register, of CW or of GRID returns a free
word, a fresh one each time (the model's draw, log entry 4), and no read changes the block. -/
def Obligations.BusyReads : Prop :=
  ∀ (s : State) (a : Addr), busy s = true →
    (wordAddr a = 0x000 → hostRead a s = { s with reads := 0x51524331 :: s.reads }) ∧
    (wordAddr a = 0x004 → hostRead a s = { s with reads := 0 :: s.reads }) ∧
    (wordAddr a = 0x008 → hostRead a s = { s with reads := statusWord s :: s.reads }) ∧
    (locate a = .unmapped → hostRead a s = { s with reads := 0 :: s.reads }) ∧
    (0x00C ≤ wordAddr a → locate a ≠ .unmapped →
      hostRead a s = { s with reads := Config.busyRead s.draws :: s.reads, draws := s.draws + 1 })

/-- R101, R275, R276: a host that writes only while BUSY = 0 and then reads only exact locations: its safe move, other than a reset, makes
no draw (the model's own count, log entries 4 and 5) and does not raise OVR. A read of a CW entry unwritten since reset draws nothing
either, though the byte that the reset put there is free (R271, log entry 3). -/
def Obligations.SafeMovesNeitherOverrunNorDraw : Prop :=
  ∀ s t : State, SafeNext s = true → nextEvent s ≠ .reset → nextEvent s ≠ .resetStart → step s = .next t →
    t.draws = s.draws ∧ (t.ovr = true → s.ovr = true)

/-! ### Reset (70_reset_and_hazards.md) and the invariant -/

/-- R22, R270: a reset, whatever the block was doing, abandons the pending command and leaves STATUS and every result register 0, the
tracker empty, every cell UNASSIGNED; it draws new CW contents (R271; the draw is the model's, log entry 3). -/
def Obligations.ResetLeavesTheListedState : Prop :=
  ∀ (s : State) (rest : List Event), s.events = .reset :: rest →
    ∃ t, step s = .next t ∧ t.pending = none ∧ statusWord t = 0 ∧
      t.p1Run = 0 ∧ t.p2Block = 0 ∧ t.p3Finder = 0 ∧ t.p4Balance = 0 ∧ t.total = 0 ∧ t.darkCount = 0 ∧
      t.bestScore = 0 ∧ bestMaskWord t = 0 ∧ t.placeConsumed = 0 ∧ t.placeDefaulted = 0 ∧
      (∀ r c, r < 33 → c < 33 → cellAt t.mem r c = .unassigned) ∧
      (∀ i, i < 100 → bufferGet t.cw i = Config.cwPowerUp s.draws i) ∧
      t.draws = s.draws + 1 ∧ t.events = rest ∧ t.reads = s.reads

/-- R25, R270: when the clear of GRID is seen as a step of its own, BUSY is 1 until the engine ends it, and the state then is the one
that the atomic reset leaves. The step of its own is the model's choice (log entry 6).
R272: the boot that follows, whatever the number of polls during the clear, reads STATUS as 1 at each of them, then 0, then ID as
0x51524331, and leaves the state of the atomic reset: nothing else needs setting up. -/
def Obligations.ResetClearEndsAsTheAtomicReset : Prop :=
  (∀ (s : State) (rest : List Event), s.events = .resetStart :: .engine :: rest →
    ∃ u, step s = .next u ∧ (statusWord u).getLsbD 0 = true ∧
      step u = step { s with events := .reset :: rest }) ∧
  ∀ (s : State) (polls : Nat), s.events = .resetStart :: asmBoot polls →
    core.run (polls + 4) s = .next { resetState s with
      events := [], reads := 0x51524331 :: 0 :: (List.replicate polls 1 ++ s.reads) }

/-- R22, R270: the values State.reset has where the spec gives them; what it holds in CW is free, and REM is no value of the spec. -/
def Obligations.ResetStateValues : Prop :=
  statusWord State.reset = 0 ∧ State.reset.pending = none ∧ State.reset.clearing = false ∧
  [State.reset.p1Run, State.reset.p2Block, State.reset.p3Finder, State.reset.p4Balance, State.reset.total,
    State.reset.darkCount, State.reset.bestScore, bestMaskWord State.reset, State.reset.placeConsumed,
    State.reset.placeDefaulted] = List.replicate 10 0 ∧
  (∀ r c, r < 33 → c < 33 → cellAt State.reset.mem r c = .unassigned) ∧
  State.reset.walker = none ∧ State.reset.scorer = none

/-- The invariant holds in the state after reset. -/
def Obligations.ResetStateIsLegal : Prop := Inv State.reset

/-- R26, R27, R30, R33 to R35, R37, R206: every step, from every legal state, keeps the invariant: the memory's canonical form, three
codes in the grid, an empty tracker at 0, TOTAL the exact sum, the bounds of R206, no hidden state between commands. -/
def Obligations.StepKeepsTheInvariant : Prop :=
  ∀ s t : State, Inv s → step s = .next t → Inv t
end

