-- ==== Sys2Proof/Laws/Memory.lean ====
section
/-! SUPPORT. What the memory and buffer operations do: reads after writes, the canonical form, cells and their codes. -/

namespace Sys2Proof.Machine

@[simp] theorem memory_read_nil (a : Nat) : Memory.read [] a = Memory.unlisted := rfl

@[simp] theorem memory_read_cons (k : Nat) (v : Byte) (m : Memory) (a : Nat) :
    Memory.read ((k, v) :: m) a = if k = a then v else Memory.read m a := by
  simp [Memory.read, cond_eq_ite]

theorem memory_write_cons (k : Nat) (v : Byte) (m : Memory) (a : Nat) (b : Byte) :
    Memory.write ((k, v) :: m) a b =
      if a < k then Memory.put a b ((k, v) :: m)
      else if k = a then Memory.put a b m else (k, v) :: Memory.write m a b := by
  have h : (Nat.blt a k = true) = (a < k) := by simp [Nat.blt_eq]
  simp only [Memory.write, cond_eq_ite, h, Nat.beq_eq]

/-- An address that no entry names reads as an unlisted one. -/
theorem memory_read_of_not_mem (m : Memory) (a : Nat) (h : ∀ x ∈ m, x.1 ≠ a) : m.read a = Memory.unlisted := by
  induction m with
  | nil => rfl
  | cons x m ih =>
    obtain ⟨k, v⟩ := x
    have hk : k ≠ a := h (k, v) (by simp)
    have hm : Memory.read m a = Memory.unlisted := ih fun y hy => h y (by simp [hy])
    rw [memory_read_cons, if_neg hk, hm]

theorem memory_read_put_other (a x : Nat) (b : Byte) (m : Memory) (h : x ≠ a) :
    (Memory.put a b m).read x = m.read x := by
  unfold Memory.put
  split
  · rfl
  · simp [Ne.symm h]

/-- A write leaves every other address alone, whatever the memory. -/
theorem memory_read_write_other (m : Memory) (a x : Nat) (b : Byte) (h : x ≠ a) :
    (m.write a b).read x = m.read x := by
  induction m with
  | nil => exact memory_read_put_other a x b [] h
  | cons y m ih =>
    obtain ⟨k, v⟩ := y
    rw [memory_write_cons]
    split
    · exact memory_read_put_other a x b _ h
    · split
      · next hk => subst hk; simp [memory_read_put_other k x b m h, Ne.symm h]
      · simp [ih]

/-- A write of a byte that stands in the list reads back, whatever the memory. -/
theorem memory_read_write_listed (m : Memory) (a : Nat) (b : Byte) (h : b ≠ Memory.unlisted) :
    (m.write a b).read a = b := by
  induction m with
  | nil => simp [Memory.write, Memory.put, h]
  | cons y m ih =>
    obtain ⟨k, v⟩ := y
    rw [memory_write_cons]
    split
    · simp [Memory.put, h]
    · split
      · simp [Memory.put, h]
      · next hk => simp [hk, ih]

/-- In a canonical memory every write reads back. -/
theorem memory_read_write_same (m : Memory) (a : Nat) (b : Byte) (h : Memory.wf m) : (m.write a b).read a = b := by
  by_cases hb : b = Memory.unlisted
  · subst hb
    induction m with
    | nil => simp [Memory.write, Memory.put]
    | cons y m ih =>
      obtain ⟨k, v⟩ := y
      obtain ⟨hrise, hlisted⟩ := h
      rw [List.pairwise_cons] at hrise
      have hm : Memory.wf m := ⟨hrise.2, fun x hx => hlisted x (by simp [hx])⟩
      rw [memory_write_cons]
      split
      · next hak =>
        refine (memory_read_of_not_mem _ _ ?_).trans rfl
        intro x hx
        simp only [Memory.put, if_true, List.mem_cons] at hx
        rcases hx with rfl | hx
        · exact Nat.ne_of_gt hak
        · exact Nat.ne_of_gt (Nat.lt_trans hak (hrise.1 x hx))
      · split
        · next hk =>
          subst hk
          refine memory_read_of_not_mem _ _ fun x hx => ?_
          simp only [Memory.put, if_true] at hx
          exact Nat.ne_of_gt (hrise.1 x hx)
        · next hk => simp [hk, ih hm]
  · exact memory_read_write_listed m a b hb

/-- Every entry of a written memory is the written one or an old one. -/
theorem memory_mem_write (m : Memory) (a : Nat) (b : Byte) {x : Host.Cell} (h : x ∈ m.write a b) :
    (x = (a, b) ∧ b ≠ Memory.unlisted) ∨ x ∈ m := by
  have put_cases : ∀ rest : Memory, x ∈ Memory.put a b rest → (x = (a, b) ∧ b ≠ Memory.unlisted) ∨ x ∈ rest := by
    intro rest hx
    unfold Memory.put at hx
    split at hx
    · exact .inr hx
    · next hb =>
      rcases List.mem_cons.mp hx with hx | hx
      · exact .inl ⟨hx, hb⟩
      · exact .inr hx
  induction m with
  | nil => exact put_cases [] h
  | cons y m ih =>
    obtain ⟨k, v⟩ := y
    rw [memory_write_cons] at h
    split at h
    · exact put_cases _ h
    · split at h
      · exact (put_cases m h).imp_right fun hx => List.mem_cons_of_mem _ hx
      · rcases List.mem_cons.mp h with hx | hx
        · exact .inr (by simp [hx])
        · exact (ih hx).imp_right fun hx => List.mem_cons_of_mem _ hx

theorem memory_wf_nil : Memory.wf [] := ⟨List.Pairwise.nil, by simp⟩

theorem memory_wf_put (a : Nat) (b : Byte) (m : Memory) (h : Memory.wf m) (ha : ∀ x ∈ m, a < x.1) :
    Memory.wf (Memory.put a b m) := by
  unfold Memory.put
  split
  · exact h
  · next hb =>
    refine ⟨List.pairwise_cons.mpr ⟨ha, h.1⟩, fun x hx => ?_⟩
    rcases List.mem_cons.mp hx with rfl | hx
    · exact hb
    · exact h.2 x hx

/-- Every write keeps the canonical form. -/
theorem memory_wf_write (m : Memory) (a : Nat) (b : Byte) (h : Memory.wf m) : Memory.wf (m.write a b) := by
  induction m with
  | nil => exact memory_wf_put a b [] memory_wf_nil (by simp)
  | cons y m ih =>
    obtain ⟨k, v⟩ := y
    obtain ⟨hrise, hlisted⟩ := h
    have hrise' := List.pairwise_cons.mp hrise
    have hm : Memory.wf m := ⟨hrise'.2, fun x hx => hlisted x (by simp [hx])⟩
    rw [memory_write_cons]
    split
    · next hak =>
      refine memory_wf_put a b _ ⟨hrise, hlisted⟩ fun x hx => ?_
      rcases List.mem_cons.mp hx with rfl | hx
      · exact hak
      · exact Nat.lt_trans hak (hrise'.1 x hx)
    · next hak =>
      split
      · next hk => subst hk; exact memory_wf_put k b m hm hrise'.1
      · next hk =>
        have hm' := ih hm
        refine ⟨List.pairwise_cons.mpr ⟨fun x hx => ?_, hm'.1⟩, fun x hx => ?_⟩
        · rcases memory_mem_write m a b hx with ⟨rfl, _⟩ | hx
          · show k < a; omega
          · exact hrise'.1 x hx
        · rcases List.mem_cons.mp hx with rfl | hx
          · exact hlisted _ (by simp)
          · exact hm'.2 x hx

/-! ### Cells -/

theorem cellAddr_eq (r c : Nat) : cellAddr r c = 4096 + 4 * (33 * r + c) := rfl

/-- Cells of the RAM have addresses of their own. -/
theorem cellAddr_inj {r c r' c' : Nat} (hc : c < 33) (hc' : c' < 33) (h : cellAddr r c = cellAddr r' c') :
    r = r' ∧ c = c' := by
  simp only [cellAddr_eq] at h
  omega

theorem colourByte_listed {x : Colour} (h : x ≠ .unassigned) : colourByte x ≠ Memory.unlisted := by
  cases x
  · exact absurd rfl h
  · decide
  · decide

theorem colourOfBits_colourByte (x : Colour) :
    colourOfBits ((colourByte x).getLsbD 1) ((colourByte x).getLsbD 0) = x := by
  cases x <;> rfl

/-- A cell is a function of the byte at its address. -/
theorem cellAt_congr {m m' : Memory} {r c : Nat} (h : m.read (cellAddr r c) = m'.read (cellAddr r c)) :
    cellAt m r c = cellAt m' r c := by
  simp only [cellAt, h]

@[simp] theorem cellAt_nil (r c : Nat) : cellAt [] r c = .unassigned := by
  simp [cellAt, Memory.unlisted, colourOfBits]

/-- A colour stored in a cell reads back. -/
theorem cellAt_setCell_same (m : Memory) (r c : Nat) (x : Colour) (h : Memory.wf m ∨ x ≠ .unassigned) :
    cellAt (setCell m r c x) r c = x := by
  have hread : (setCell m r c x).read (cellAddr r c) = colourByte x := by
    rcases h with h | h
    · exact memory_read_write_same m _ _ h
    · exact memory_read_write_listed m _ _ (colourByte_listed h)
  simp only [cellAt, hread, colourOfBits_colourByte]

/-- Storing a cell leaves every other address alone. -/
theorem read_setCell_other (m : Memory) (r c a : Nat) (x : Colour) (h : a ≠ cellAddr r c) :
    (setCell m r c x).read a = m.read a :=
  memory_read_write_other m _ a _ h

/-- Storing a cell leaves every other cell alone. -/
theorem cellAt_setCell_other (m : Memory) (r c r' c' : Nat) (x : Colour) (h : cellAddr r' c' ≠ cellAddr r c) :
    cellAt (setCell m r c x) r' c' = cellAt m r' c' :=
  cellAt_congr (read_setCell_other m r c _ x h)

theorem memory_wf_setCell (m : Memory) (r c : Nat) (x : Colour) (h : Memory.wf m) : Memory.wf (setCell m r c x) :=
  memory_wf_write m _ _ h

/-! ### Buffers -/

theorem bufferGet_set {n : Nat} (v : Vector Byte n) (i j : Nat) (b : Byte) :
    bufferGet (v.setIfInBounds i b) j = if i = j ∧ i < n then b else bufferGet v j := by
  unfold bufferGet
  rw [Vector.getElem?_setIfInBounds]
  by_cases h : i = j
  · subst h
    by_cases hi : i < n <;> simp [hi]
  · simp [h]

/-- Stored bytes stand from the first index on, and every other entry is kept. -/
theorem bufferGet_store {n : Nat} (bs : List Byte) (v : Vector Byte n) (i j : Nat) (hj : j < n) :
    bufferGet (bufferStore v i bs) j =
      if i ≤ j ∧ j < i + bs.length then bs.getD (j - i) 0 else bufferGet v j := by
  induction bs generalizing v i with
  | nil => simp [bufferStore]
  | cons b bs ih =>
    rw [bufferStore, ih, bufferGet_set]
    by_cases h : i = j
    · subst h
      simp [hj]
    · by_cases h1 : i + 1 ≤ j
      · have h2 : j - i = (j - (i + 1)) + 1 := by omega
        have h3 : (i + 1 ≤ j ∧ j < i + 1 + bs.length) = (i ≤ j ∧ j < i + (bs.length + 1)) := by
          apply propext; omega
        simp only [h, List.length_cons, h3, h2, List.getD_cons_succ, false_and, if_false]
      · have h4 : ¬ (i + 1 ≤ j ∧ j < i + 1 + bs.length) := fun h5 => h1 h5.1
        have h5 : ¬ (i ≤ j ∧ j < i + (b :: bs).length) := by rintro ⟨h6, -⟩; omega
        rw [if_neg h4, if_neg h5, if_neg fun h6 => h h6.1]

@[simp] theorem bufferTake_length {n : Nat} (v : Vector Byte n) (k : Nat) : (bufferTake v k).length = k := by
  simp [bufferTake]

/-- Two buffers are equal when all their entries are. -/
theorem buffer_ext {n : Nat} {v w : Vector Byte n} (h : ∀ i < n, bufferGet v i = bufferGet w i) : v = w := by
  apply Vector.ext
  intro i hi
  simpa [bufferGet, hi] using h i hi

/-- The memory after reset is in canonical form. -/
theorem memory_wf_reset : Memory.wf State.reset.mem := memory_wf_nil

end Sys2Proof.Machine
end

