-- ==== Sys2Proof/Laws/State.lean ====
section
/-! SUPPORT. One lemma for each field under each named update of the state, so that no later proof unfolds a record update. -/

namespace Sys2Proof.Machine

/-! ### complete -/

@[simp] theorem complete_events (code : ErrCode) (s : State) : (complete code s).events = s.events := rfl
@[simp] theorem complete_reads (code : ErrCode) (s : State) : (complete code s).reads = s.reads := rfl
@[simp] theorem complete_draws (code : ErrCode) (s : State) : (complete code s).draws = s.draws := rfl
@[simp] theorem complete_pending (code : ErrCode) (s : State) : (complete code s).pending = none := rfl
@[simp] theorem complete_clearing (code : ErrCode) (s : State) : (complete code s).clearing = s.clearing := rfl
@[simp] theorem complete_err (code : ErrCode) (s : State) : (complete code s).err = code := rfl
@[simp] theorem complete_stickyErr (code : ErrCode) (s : State) : (complete code s).stickyErr = (s.stickyErr || decide (code ≠ .ok)) := rfl
@[simp] theorem complete_ovr (code : ErrCode) (s : State) : (complete code s).ovr = s.ovr := rfl
@[simp] theorem complete_p1Run (code : ErrCode) (s : State) : (complete code s).p1Run = s.p1Run := rfl
@[simp] theorem complete_p2Block (code : ErrCode) (s : State) : (complete code s).p2Block = s.p2Block := rfl
@[simp] theorem complete_p3Finder (code : ErrCode) (s : State) : (complete code s).p3Finder = s.p3Finder := rfl
@[simp] theorem complete_p4Balance (code : ErrCode) (s : State) : (complete code s).p4Balance = s.p4Balance := rfl
@[simp] theorem complete_total (code : ErrCode) (s : State) : (complete code s).total = s.total := rfl
@[simp] theorem complete_darkCount (code : ErrCode) (s : State) : (complete code s).darkCount = s.darkCount := rfl
@[simp] theorem complete_bestScore (code : ErrCode) (s : State) : (complete code s).bestScore = s.bestScore := rfl
@[simp] theorem complete_bestValid (code : ErrCode) (s : State) : (complete code s).bestValid = s.bestValid := rfl
@[simp] theorem complete_bestMaskId (code : ErrCode) (s : State) : (complete code s).bestMaskId = s.bestMaskId := rfl
@[simp] theorem complete_placeConsumed (code : ErrCode) (s : State) : (complete code s).placeConsumed = s.placeConsumed := rfl
@[simp] theorem complete_placeDefaulted (code : ErrCode) (s : State) : (complete code s).placeDefaulted = s.placeDefaulted := rfl
@[simp] theorem complete_cw (code : ErrCode) (s : State) : (complete code s).cw = s.cw := rfl
@[simp] theorem complete_mem (code : ErrCode) (s : State) : (complete code s).mem = s.mem := rfl
@[simp] theorem complete_rem (code : ErrCode) (s : State) : (complete code s).rem = s.rem := rfl
@[simp] theorem complete_walker (code : ErrCode) (s : State) : (complete code s).walker = none := rfl
@[simp] theorem complete_scorer (code : ErrCode) (s : State) : (complete code s).scorer = none := rfl

/-! ### recordEcc -/

@[simp] theorem recordEcc_events (k : Nat) (ecc : List Byte) (s : State) : (recordEcc k ecc s).events = s.events := rfl
@[simp] theorem recordEcc_reads (k : Nat) (ecc : List Byte) (s : State) : (recordEcc k ecc s).reads = s.reads := rfl
@[simp] theorem recordEcc_draws (k : Nat) (ecc : List Byte) (s : State) : (recordEcc k ecc s).draws = s.draws := rfl
@[simp] theorem recordEcc_pending (k : Nat) (ecc : List Byte) (s : State) : (recordEcc k ecc s).pending = s.pending := rfl
@[simp] theorem recordEcc_clearing (k : Nat) (ecc : List Byte) (s : State) : (recordEcc k ecc s).clearing = s.clearing := rfl
@[simp] theorem recordEcc_err (k : Nat) (ecc : List Byte) (s : State) : (recordEcc k ecc s).err = s.err := rfl
@[simp] theorem recordEcc_stickyErr (k : Nat) (ecc : List Byte) (s : State) : (recordEcc k ecc s).stickyErr = s.stickyErr := rfl
@[simp] theorem recordEcc_ovr (k : Nat) (ecc : List Byte) (s : State) : (recordEcc k ecc s).ovr = s.ovr := rfl
@[simp] theorem recordEcc_p1Run (k : Nat) (ecc : List Byte) (s : State) : (recordEcc k ecc s).p1Run = s.p1Run := rfl
@[simp] theorem recordEcc_p2Block (k : Nat) (ecc : List Byte) (s : State) : (recordEcc k ecc s).p2Block = s.p2Block := rfl
@[simp] theorem recordEcc_p3Finder (k : Nat) (ecc : List Byte) (s : State) : (recordEcc k ecc s).p3Finder = s.p3Finder := rfl
@[simp] theorem recordEcc_p4Balance (k : Nat) (ecc : List Byte) (s : State) : (recordEcc k ecc s).p4Balance = s.p4Balance := rfl
@[simp] theorem recordEcc_total (k : Nat) (ecc : List Byte) (s : State) : (recordEcc k ecc s).total = s.total := rfl
@[simp] theorem recordEcc_darkCount (k : Nat) (ecc : List Byte) (s : State) : (recordEcc k ecc s).darkCount = s.darkCount := rfl
@[simp] theorem recordEcc_bestScore (k : Nat) (ecc : List Byte) (s : State) : (recordEcc k ecc s).bestScore = s.bestScore := rfl
@[simp] theorem recordEcc_bestValid (k : Nat) (ecc : List Byte) (s : State) : (recordEcc k ecc s).bestValid = s.bestValid := rfl
@[simp] theorem recordEcc_bestMaskId (k : Nat) (ecc : List Byte) (s : State) : (recordEcc k ecc s).bestMaskId = s.bestMaskId := rfl
@[simp] theorem recordEcc_placeConsumed (k : Nat) (ecc : List Byte) (s : State) : (recordEcc k ecc s).placeConsumed = s.placeConsumed := rfl
@[simp] theorem recordEcc_placeDefaulted (k : Nat) (ecc : List Byte) (s : State) : (recordEcc k ecc s).placeDefaulted = s.placeDefaulted := rfl
@[simp] theorem recordEcc_cw (k : Nat) (ecc : List Byte) (s : State) : (recordEcc k ecc s).cw = bufferStore s.cw k ecc := rfl
@[simp] theorem recordEcc_mem (k : Nat) (ecc : List Byte) (s : State) : (recordEcc k ecc s).mem = s.mem := rfl
@[simp] theorem recordEcc_rem (k : Nat) (ecc : List Byte) (s : State) : (recordEcc k ecc s).rem = bufferStore s.rem 0 ecc := rfl
@[simp] theorem recordEcc_walker (k : Nat) (ecc : List Byte) (s : State) : (recordEcc k ecc s).walker = s.walker := rfl
@[simp] theorem recordEcc_scorer (k : Nat) (ecc : List Byte) (s : State) : (recordEcc k ecc s).scorer = s.scorer := rfl

/-! ### recordPlace -/

@[simp] theorem recordPlace_events (m : Memory) (n d : Nat) (s : State) : (recordPlace m n d s).events = s.events := rfl
@[simp] theorem recordPlace_reads (m : Memory) (n d : Nat) (s : State) : (recordPlace m n d s).reads = s.reads := rfl
@[simp] theorem recordPlace_draws (m : Memory) (n d : Nat) (s : State) : (recordPlace m n d s).draws = s.draws := rfl
@[simp] theorem recordPlace_pending (m : Memory) (n d : Nat) (s : State) : (recordPlace m n d s).pending = s.pending := rfl
@[simp] theorem recordPlace_clearing (m : Memory) (n d : Nat) (s : State) : (recordPlace m n d s).clearing = s.clearing := rfl
@[simp] theorem recordPlace_err (m : Memory) (n d : Nat) (s : State) : (recordPlace m n d s).err = s.err := rfl
@[simp] theorem recordPlace_stickyErr (m : Memory) (n d : Nat) (s : State) : (recordPlace m n d s).stickyErr = s.stickyErr := rfl
@[simp] theorem recordPlace_ovr (m : Memory) (n d : Nat) (s : State) : (recordPlace m n d s).ovr = s.ovr := rfl
@[simp] theorem recordPlace_p1Run (m : Memory) (n d : Nat) (s : State) : (recordPlace m n d s).p1Run = s.p1Run := rfl
@[simp] theorem recordPlace_p2Block (m : Memory) (n d : Nat) (s : State) : (recordPlace m n d s).p2Block = s.p2Block := rfl
@[simp] theorem recordPlace_p3Finder (m : Memory) (n d : Nat) (s : State) : (recordPlace m n d s).p3Finder = s.p3Finder := rfl
@[simp] theorem recordPlace_p4Balance (m : Memory) (n d : Nat) (s : State) : (recordPlace m n d s).p4Balance = s.p4Balance := rfl
@[simp] theorem recordPlace_total (m : Memory) (n d : Nat) (s : State) : (recordPlace m n d s).total = s.total := rfl
@[simp] theorem recordPlace_darkCount (m : Memory) (n d : Nat) (s : State) : (recordPlace m n d s).darkCount = s.darkCount := rfl
@[simp] theorem recordPlace_bestScore (m : Memory) (n d : Nat) (s : State) : (recordPlace m n d s).bestScore = s.bestScore := rfl
@[simp] theorem recordPlace_bestValid (m : Memory) (n d : Nat) (s : State) : (recordPlace m n d s).bestValid = s.bestValid := rfl
@[simp] theorem recordPlace_bestMaskId (m : Memory) (n d : Nat) (s : State) : (recordPlace m n d s).bestMaskId = s.bestMaskId := rfl
@[simp] theorem recordPlace_placeConsumed (m : Memory) (n d : Nat) (s : State) : (recordPlace m n d s).placeConsumed = BitVec.ofNat 32 n := rfl
@[simp] theorem recordPlace_placeDefaulted (m : Memory) (n d : Nat) (s : State) : (recordPlace m n d s).placeDefaulted = BitVec.ofNat 32 d := rfl
@[simp] theorem recordPlace_cw (m : Memory) (n d : Nat) (s : State) : (recordPlace m n d s).cw = s.cw := rfl
@[simp] theorem recordPlace_mem (m : Memory) (n d : Nat) (s : State) : (recordPlace m n d s).mem = m := rfl
@[simp] theorem recordPlace_rem (m : Memory) (n d : Nat) (s : State) : (recordPlace m n d s).rem = s.rem := rfl
@[simp] theorem recordPlace_walker (m : Memory) (n d : Nat) (s : State) : (recordPlace m n d s).walker = s.walker := rfl
@[simp] theorem recordPlace_scorer (m : Memory) (n d : Nat) (s : State) : (recordPlace m n d s).scorer = s.scorer := rfl

/-! ### recordScore -/

@[simp] theorem recordScore_events (p1 p2 p3 p4 d : Nat) (s : State) : (recordScore p1 p2 p3 p4 d s).events = s.events := rfl
@[simp] theorem recordScore_reads (p1 p2 p3 p4 d : Nat) (s : State) : (recordScore p1 p2 p3 p4 d s).reads = s.reads := rfl
@[simp] theorem recordScore_draws (p1 p2 p3 p4 d : Nat) (s : State) : (recordScore p1 p2 p3 p4 d s).draws = s.draws := rfl
@[simp] theorem recordScore_pending (p1 p2 p3 p4 d : Nat) (s : State) : (recordScore p1 p2 p3 p4 d s).pending = s.pending := rfl
@[simp] theorem recordScore_clearing (p1 p2 p3 p4 d : Nat) (s : State) : (recordScore p1 p2 p3 p4 d s).clearing = s.clearing := rfl
@[simp] theorem recordScore_err (p1 p2 p3 p4 d : Nat) (s : State) : (recordScore p1 p2 p3 p4 d s).err = s.err := rfl
@[simp] theorem recordScore_stickyErr (p1 p2 p3 p4 d : Nat) (s : State) : (recordScore p1 p2 p3 p4 d s).stickyErr = s.stickyErr := rfl
@[simp] theorem recordScore_ovr (p1 p2 p3 p4 d : Nat) (s : State) : (recordScore p1 p2 p3 p4 d s).ovr = s.ovr := rfl
@[simp] theorem recordScore_p1Run (p1 p2 p3 p4 d : Nat) (s : State) : (recordScore p1 p2 p3 p4 d s).p1Run = BitVec.ofNat 32 p1 := rfl
@[simp] theorem recordScore_p2Block (p1 p2 p3 p4 d : Nat) (s : State) : (recordScore p1 p2 p3 p4 d s).p2Block = BitVec.ofNat 32 p2 := rfl
@[simp] theorem recordScore_p3Finder (p1 p2 p3 p4 d : Nat) (s : State) : (recordScore p1 p2 p3 p4 d s).p3Finder = BitVec.ofNat 32 p3 := rfl
@[simp] theorem recordScore_p4Balance (p1 p2 p3 p4 d : Nat) (s : State) : (recordScore p1 p2 p3 p4 d s).p4Balance = BitVec.ofNat 32 p4 := rfl
@[simp] theorem recordScore_total (p1 p2 p3 p4 d : Nat) (s : State) : (recordScore p1 p2 p3 p4 d s).total = BitVec.ofNat 32 (p1 + p2 + p3 + p4) := rfl
@[simp] theorem recordScore_darkCount (p1 p2 p3 p4 d : Nat) (s : State) : (recordScore p1 p2 p3 p4 d s).darkCount = BitVec.ofNat 32 d := rfl
@[simp] theorem recordScore_bestScore (p1 p2 p3 p4 d : Nat) (s : State) : (recordScore p1 p2 p3 p4 d s).bestScore = s.bestScore := rfl
@[simp] theorem recordScore_bestValid (p1 p2 p3 p4 d : Nat) (s : State) : (recordScore p1 p2 p3 p4 d s).bestValid = s.bestValid := rfl
@[simp] theorem recordScore_bestMaskId (p1 p2 p3 p4 d : Nat) (s : State) : (recordScore p1 p2 p3 p4 d s).bestMaskId = s.bestMaskId := rfl
@[simp] theorem recordScore_placeConsumed (p1 p2 p3 p4 d : Nat) (s : State) : (recordScore p1 p2 p3 p4 d s).placeConsumed = s.placeConsumed := rfl
@[simp] theorem recordScore_placeDefaulted (p1 p2 p3 p4 d : Nat) (s : State) : (recordScore p1 p2 p3 p4 d s).placeDefaulted = s.placeDefaulted := rfl
@[simp] theorem recordScore_cw (p1 p2 p3 p4 d : Nat) (s : State) : (recordScore p1 p2 p3 p4 d s).cw = s.cw := rfl
@[simp] theorem recordScore_mem (p1 p2 p3 p4 d : Nat) (s : State) : (recordScore p1 p2 p3 p4 d s).mem = s.mem := rfl
@[simp] theorem recordScore_rem (p1 p2 p3 p4 d : Nat) (s : State) : (recordScore p1 p2 p3 p4 d s).rem = s.rem := rfl
@[simp] theorem recordScore_walker (p1 p2 p3 p4 d : Nat) (s : State) : (recordScore p1 p2 p3 p4 d s).walker = s.walker := rfl
@[simp] theorem recordScore_scorer (p1 p2 p3 p4 d : Nat) (s : State) : (recordScore p1 p2 p3 p4 d s).scorer = s.scorer := rfl

/-! ### recordBest -/

@[simp] theorem recordBest_events (w : Word) (m : BitVec 3) (s : State) : (recordBest w m s).events = s.events := rfl
@[simp] theorem recordBest_reads (w : Word) (m : BitVec 3) (s : State) : (recordBest w m s).reads = s.reads := rfl
@[simp] theorem recordBest_draws (w : Word) (m : BitVec 3) (s : State) : (recordBest w m s).draws = s.draws := rfl
@[simp] theorem recordBest_pending (w : Word) (m : BitVec 3) (s : State) : (recordBest w m s).pending = s.pending := rfl
@[simp] theorem recordBest_clearing (w : Word) (m : BitVec 3) (s : State) : (recordBest w m s).clearing = s.clearing := rfl
@[simp] theorem recordBest_err (w : Word) (m : BitVec 3) (s : State) : (recordBest w m s).err = s.err := rfl
@[simp] theorem recordBest_stickyErr (w : Word) (m : BitVec 3) (s : State) : (recordBest w m s).stickyErr = s.stickyErr := rfl
@[simp] theorem recordBest_ovr (w : Word) (m : BitVec 3) (s : State) : (recordBest w m s).ovr = s.ovr := rfl
@[simp] theorem recordBest_p1Run (w : Word) (m : BitVec 3) (s : State) : (recordBest w m s).p1Run = s.p1Run := rfl
@[simp] theorem recordBest_p2Block (w : Word) (m : BitVec 3) (s : State) : (recordBest w m s).p2Block = s.p2Block := rfl
@[simp] theorem recordBest_p3Finder (w : Word) (m : BitVec 3) (s : State) : (recordBest w m s).p3Finder = s.p3Finder := rfl
@[simp] theorem recordBest_p4Balance (w : Word) (m : BitVec 3) (s : State) : (recordBest w m s).p4Balance = s.p4Balance := rfl
@[simp] theorem recordBest_total (w : Word) (m : BitVec 3) (s : State) : (recordBest w m s).total = s.total := rfl
@[simp] theorem recordBest_darkCount (w : Word) (m : BitVec 3) (s : State) : (recordBest w m s).darkCount = s.darkCount := rfl
@[simp] theorem recordBest_bestScore (w : Word) (m : BitVec 3) (s : State) : (recordBest w m s).bestScore = w := rfl
@[simp] theorem recordBest_bestValid (w : Word) (m : BitVec 3) (s : State) : (recordBest w m s).bestValid = true := rfl
@[simp] theorem recordBest_bestMaskId (w : Word) (m : BitVec 3) (s : State) : (recordBest w m s).bestMaskId = m := rfl
@[simp] theorem recordBest_placeConsumed (w : Word) (m : BitVec 3) (s : State) : (recordBest w m s).placeConsumed = s.placeConsumed := rfl
@[simp] theorem recordBest_placeDefaulted (w : Word) (m : BitVec 3) (s : State) : (recordBest w m s).placeDefaulted = s.placeDefaulted := rfl
@[simp] theorem recordBest_cw (w : Word) (m : BitVec 3) (s : State) : (recordBest w m s).cw = s.cw := rfl
@[simp] theorem recordBest_mem (w : Word) (m : BitVec 3) (s : State) : (recordBest w m s).mem = s.mem := rfl
@[simp] theorem recordBest_rem (w : Word) (m : BitVec 3) (s : State) : (recordBest w m s).rem = s.rem := rfl
@[simp] theorem recordBest_walker (w : Word) (m : BitVec 3) (s : State) : (recordBest w m s).walker = s.walker := rfl
@[simp] theorem recordBest_scorer (w : Word) (m : BitVec 3) (s : State) : (recordBest w m s).scorer = s.scorer := rfl

/-! ### clearBest -/

@[simp] theorem clearBest_events (s : State) : (clearBest s).events = s.events := rfl
@[simp] theorem clearBest_reads (s : State) : (clearBest s).reads = s.reads := rfl
@[simp] theorem clearBest_draws (s : State) : (clearBest s).draws = s.draws := rfl
@[simp] theorem clearBest_pending (s : State) : (clearBest s).pending = s.pending := rfl
@[simp] theorem clearBest_clearing (s : State) : (clearBest s).clearing = s.clearing := rfl
@[simp] theorem clearBest_err (s : State) : (clearBest s).err = s.err := rfl
@[simp] theorem clearBest_stickyErr (s : State) : (clearBest s).stickyErr = s.stickyErr := rfl
@[simp] theorem clearBest_ovr (s : State) : (clearBest s).ovr = s.ovr := rfl
@[simp] theorem clearBest_p1Run (s : State) : (clearBest s).p1Run = s.p1Run := rfl
@[simp] theorem clearBest_p2Block (s : State) : (clearBest s).p2Block = s.p2Block := rfl
@[simp] theorem clearBest_p3Finder (s : State) : (clearBest s).p3Finder = s.p3Finder := rfl
@[simp] theorem clearBest_p4Balance (s : State) : (clearBest s).p4Balance = s.p4Balance := rfl
@[simp] theorem clearBest_total (s : State) : (clearBest s).total = s.total := rfl
@[simp] theorem clearBest_darkCount (s : State) : (clearBest s).darkCount = s.darkCount := rfl
@[simp] theorem clearBest_bestScore (s : State) : (clearBest s).bestScore = 0 := rfl
@[simp] theorem clearBest_bestValid (s : State) : (clearBest s).bestValid = false := rfl
@[simp] theorem clearBest_bestMaskId (s : State) : (clearBest s).bestMaskId = 0 := rfl
@[simp] theorem clearBest_placeConsumed (s : State) : (clearBest s).placeConsumed = s.placeConsumed := rfl
@[simp] theorem clearBest_placeDefaulted (s : State) : (clearBest s).placeDefaulted = s.placeDefaulted := rfl
@[simp] theorem clearBest_cw (s : State) : (clearBest s).cw = s.cw := rfl
@[simp] theorem clearBest_mem (s : State) : (clearBest s).mem = s.mem := rfl
@[simp] theorem clearBest_rem (s : State) : (clearBest s).rem = s.rem := rfl
@[simp] theorem clearBest_walker (s : State) : (clearBest s).walker = s.walker := rfl
@[simp] theorem clearBest_scorer (s : State) : (clearBest s).scorer = s.scorer := rfl

/-! ### clearGrid -/

@[simp] theorem clearGrid_events (s : State) : (clearGrid s).events = s.events := rfl
@[simp] theorem clearGrid_reads (s : State) : (clearGrid s).reads = s.reads := rfl
@[simp] theorem clearGrid_draws (s : State) : (clearGrid s).draws = s.draws := rfl
@[simp] theorem clearGrid_pending (s : State) : (clearGrid s).pending = s.pending := rfl
@[simp] theorem clearGrid_clearing (s : State) : (clearGrid s).clearing = s.clearing := rfl
@[simp] theorem clearGrid_err (s : State) : (clearGrid s).err = s.err := rfl
@[simp] theorem clearGrid_stickyErr (s : State) : (clearGrid s).stickyErr = s.stickyErr := rfl
@[simp] theorem clearGrid_ovr (s : State) : (clearGrid s).ovr = s.ovr := rfl
@[simp] theorem clearGrid_p1Run (s : State) : (clearGrid s).p1Run = s.p1Run := rfl
@[simp] theorem clearGrid_p2Block (s : State) : (clearGrid s).p2Block = s.p2Block := rfl
@[simp] theorem clearGrid_p3Finder (s : State) : (clearGrid s).p3Finder = s.p3Finder := rfl
@[simp] theorem clearGrid_p4Balance (s : State) : (clearGrid s).p4Balance = s.p4Balance := rfl
@[simp] theorem clearGrid_total (s : State) : (clearGrid s).total = s.total := rfl
@[simp] theorem clearGrid_darkCount (s : State) : (clearGrid s).darkCount = s.darkCount := rfl
@[simp] theorem clearGrid_bestScore (s : State) : (clearGrid s).bestScore = s.bestScore := rfl
@[simp] theorem clearGrid_bestValid (s : State) : (clearGrid s).bestValid = s.bestValid := rfl
@[simp] theorem clearGrid_bestMaskId (s : State) : (clearGrid s).bestMaskId = s.bestMaskId := rfl
@[simp] theorem clearGrid_placeConsumed (s : State) : (clearGrid s).placeConsumed = s.placeConsumed := rfl
@[simp] theorem clearGrid_placeDefaulted (s : State) : (clearGrid s).placeDefaulted = s.placeDefaulted := rfl
@[simp] theorem clearGrid_cw (s : State) : (clearGrid s).cw = s.cw := rfl
@[simp] theorem clearGrid_mem (s : State) : (clearGrid s).mem = [] := rfl
@[simp] theorem clearGrid_rem (s : State) : (clearGrid s).rem = s.rem := rfl
@[simp] theorem clearGrid_walker (s : State) : (clearGrid s).walker = s.walker := rfl
@[simp] theorem clearGrid_scorer (s : State) : (clearGrid s).scorer = s.scorer := rfl

/-! ### endClear -/

@[simp] theorem endClear_events (s : State) : (endClear s).events = s.events := rfl
@[simp] theorem endClear_reads (s : State) : (endClear s).reads = s.reads := rfl
@[simp] theorem endClear_draws (s : State) : (endClear s).draws = s.draws := rfl
@[simp] theorem endClear_pending (s : State) : (endClear s).pending = s.pending := rfl
@[simp] theorem endClear_clearing (s : State) : (endClear s).clearing = false := rfl
@[simp] theorem endClear_err (s : State) : (endClear s).err = s.err := rfl
@[simp] theorem endClear_stickyErr (s : State) : (endClear s).stickyErr = s.stickyErr := rfl
@[simp] theorem endClear_ovr (s : State) : (endClear s).ovr = s.ovr := rfl
@[simp] theorem endClear_p1Run (s : State) : (endClear s).p1Run = s.p1Run := rfl
@[simp] theorem endClear_p2Block (s : State) : (endClear s).p2Block = s.p2Block := rfl
@[simp] theorem endClear_p3Finder (s : State) : (endClear s).p3Finder = s.p3Finder := rfl
@[simp] theorem endClear_p4Balance (s : State) : (endClear s).p4Balance = s.p4Balance := rfl
@[simp] theorem endClear_total (s : State) : (endClear s).total = s.total := rfl
@[simp] theorem endClear_darkCount (s : State) : (endClear s).darkCount = s.darkCount := rfl
@[simp] theorem endClear_bestScore (s : State) : (endClear s).bestScore = s.bestScore := rfl
@[simp] theorem endClear_bestValid (s : State) : (endClear s).bestValid = s.bestValid := rfl
@[simp] theorem endClear_bestMaskId (s : State) : (endClear s).bestMaskId = s.bestMaskId := rfl
@[simp] theorem endClear_placeConsumed (s : State) : (endClear s).placeConsumed = s.placeConsumed := rfl
@[simp] theorem endClear_placeDefaulted (s : State) : (endClear s).placeDefaulted = s.placeDefaulted := rfl
@[simp] theorem endClear_cw (s : State) : (endClear s).cw = s.cw := rfl
@[simp] theorem endClear_mem (s : State) : (endClear s).mem = [] := rfl
@[simp] theorem endClear_rem (s : State) : (endClear s).rem = s.rem := rfl
@[simp] theorem endClear_walker (s : State) : (endClear s).walker = s.walker := rfl
@[simp] theorem endClear_scorer (s : State) : (endClear s).scorer = s.scorer := rfl

/-! ### clearStatusBits -/

@[simp] theorem clearStatusBits_events (w : Word) (s : State) : (clearStatusBits w s).events = s.events := rfl
@[simp] theorem clearStatusBits_reads (w : Word) (s : State) : (clearStatusBits w s).reads = s.reads := rfl
@[simp] theorem clearStatusBits_draws (w : Word) (s : State) : (clearStatusBits w s).draws = s.draws := rfl
@[simp] theorem clearStatusBits_pending (w : Word) (s : State) : (clearStatusBits w s).pending = s.pending := rfl
@[simp] theorem clearStatusBits_clearing (w : Word) (s : State) : (clearStatusBits w s).clearing = s.clearing := rfl
@[simp] theorem clearStatusBits_err (w : Word) (s : State) : (clearStatusBits w s).err = s.err := rfl
@[simp] theorem clearStatusBits_stickyErr (w : Word) (s : State) : (clearStatusBits w s).stickyErr = (s.stickyErr && !w.getLsbD 1) := rfl
@[simp] theorem clearStatusBits_ovr (w : Word) (s : State) : (clearStatusBits w s).ovr = (s.ovr && !w.getLsbD 2) := rfl
@[simp] theorem clearStatusBits_p1Run (w : Word) (s : State) : (clearStatusBits w s).p1Run = s.p1Run := rfl
@[simp] theorem clearStatusBits_p2Block (w : Word) (s : State) : (clearStatusBits w s).p2Block = s.p2Block := rfl
@[simp] theorem clearStatusBits_p3Finder (w : Word) (s : State) : (clearStatusBits w s).p3Finder = s.p3Finder := rfl
@[simp] theorem clearStatusBits_p4Balance (w : Word) (s : State) : (clearStatusBits w s).p4Balance = s.p4Balance := rfl
@[simp] theorem clearStatusBits_total (w : Word) (s : State) : (clearStatusBits w s).total = s.total := rfl
@[simp] theorem clearStatusBits_darkCount (w : Word) (s : State) : (clearStatusBits w s).darkCount = s.darkCount := rfl
@[simp] theorem clearStatusBits_bestScore (w : Word) (s : State) : (clearStatusBits w s).bestScore = s.bestScore := rfl
@[simp] theorem clearStatusBits_bestValid (w : Word) (s : State) : (clearStatusBits w s).bestValid = s.bestValid := rfl
@[simp] theorem clearStatusBits_bestMaskId (w : Word) (s : State) : (clearStatusBits w s).bestMaskId = s.bestMaskId := rfl
@[simp] theorem clearStatusBits_placeConsumed (w : Word) (s : State) : (clearStatusBits w s).placeConsumed = s.placeConsumed := rfl
@[simp] theorem clearStatusBits_placeDefaulted (w : Word) (s : State) : (clearStatusBits w s).placeDefaulted = s.placeDefaulted := rfl
@[simp] theorem clearStatusBits_cw (w : Word) (s : State) : (clearStatusBits w s).cw = s.cw := rfl
@[simp] theorem clearStatusBits_mem (w : Word) (s : State) : (clearStatusBits w s).mem = s.mem := rfl
@[simp] theorem clearStatusBits_rem (w : Word) (s : State) : (clearStatusBits w s).rem = s.rem := rfl
@[simp] theorem clearStatusBits_walker (w : Word) (s : State) : (clearStatusBits w s).walker = s.walker := rfl
@[simp] theorem clearStatusBits_scorer (w : Word) (s : State) : (clearStatusBits w s).scorer = s.scorer := rfl

/-! ### answerRead -/

@[simp] theorem answerRead_events (w : Word) (s : State) : (answerRead w s).events = s.events := rfl
@[simp] theorem answerRead_reads (w : Word) (s : State) : (answerRead w s).reads = w :: s.reads := rfl
@[simp] theorem answerRead_draws (w : Word) (s : State) : (answerRead w s).draws = s.draws := rfl
@[simp] theorem answerRead_pending (w : Word) (s : State) : (answerRead w s).pending = s.pending := rfl
@[simp] theorem answerRead_clearing (w : Word) (s : State) : (answerRead w s).clearing = s.clearing := rfl
@[simp] theorem answerRead_err (w : Word) (s : State) : (answerRead w s).err = s.err := rfl
@[simp] theorem answerRead_stickyErr (w : Word) (s : State) : (answerRead w s).stickyErr = s.stickyErr := rfl
@[simp] theorem answerRead_ovr (w : Word) (s : State) : (answerRead w s).ovr = s.ovr := rfl
@[simp] theorem answerRead_p1Run (w : Word) (s : State) : (answerRead w s).p1Run = s.p1Run := rfl
@[simp] theorem answerRead_p2Block (w : Word) (s : State) : (answerRead w s).p2Block = s.p2Block := rfl
@[simp] theorem answerRead_p3Finder (w : Word) (s : State) : (answerRead w s).p3Finder = s.p3Finder := rfl
@[simp] theorem answerRead_p4Balance (w : Word) (s : State) : (answerRead w s).p4Balance = s.p4Balance := rfl
@[simp] theorem answerRead_total (w : Word) (s : State) : (answerRead w s).total = s.total := rfl
@[simp] theorem answerRead_darkCount (w : Word) (s : State) : (answerRead w s).darkCount = s.darkCount := rfl
@[simp] theorem answerRead_bestScore (w : Word) (s : State) : (answerRead w s).bestScore = s.bestScore := rfl
@[simp] theorem answerRead_bestValid (w : Word) (s : State) : (answerRead w s).bestValid = s.bestValid := rfl
@[simp] theorem answerRead_bestMaskId (w : Word) (s : State) : (answerRead w s).bestMaskId = s.bestMaskId := rfl
@[simp] theorem answerRead_placeConsumed (w : Word) (s : State) : (answerRead w s).placeConsumed = s.placeConsumed := rfl
@[simp] theorem answerRead_placeDefaulted (w : Word) (s : State) : (answerRead w s).placeDefaulted = s.placeDefaulted := rfl
@[simp] theorem answerRead_cw (w : Word) (s : State) : (answerRead w s).cw = s.cw := rfl
@[simp] theorem answerRead_mem (w : Word) (s : State) : (answerRead w s).mem = s.mem := rfl
@[simp] theorem answerRead_rem (w : Word) (s : State) : (answerRead w s).rem = s.rem := rfl
@[simp] theorem answerRead_walker (w : Word) (s : State) : (answerRead w s).walker = s.walker := rfl
@[simp] theorem answerRead_scorer (w : Word) (s : State) : (answerRead w s).scorer = s.scorer := rfl

/-! ### drawRead -/

@[simp] theorem drawRead_events (s : State) : (drawRead s).events = s.events := rfl
@[simp] theorem drawRead_reads (s : State) : (drawRead s).reads = Config.busyRead s.draws :: s.reads := rfl
@[simp] theorem drawRead_draws (s : State) : (drawRead s).draws = s.draws + 1 := rfl
@[simp] theorem drawRead_pending (s : State) : (drawRead s).pending = s.pending := rfl
@[simp] theorem drawRead_clearing (s : State) : (drawRead s).clearing = s.clearing := rfl
@[simp] theorem drawRead_err (s : State) : (drawRead s).err = s.err := rfl
@[simp] theorem drawRead_stickyErr (s : State) : (drawRead s).stickyErr = s.stickyErr := rfl
@[simp] theorem drawRead_ovr (s : State) : (drawRead s).ovr = s.ovr := rfl
@[simp] theorem drawRead_p1Run (s : State) : (drawRead s).p1Run = s.p1Run := rfl
@[simp] theorem drawRead_p2Block (s : State) : (drawRead s).p2Block = s.p2Block := rfl
@[simp] theorem drawRead_p3Finder (s : State) : (drawRead s).p3Finder = s.p3Finder := rfl
@[simp] theorem drawRead_p4Balance (s : State) : (drawRead s).p4Balance = s.p4Balance := rfl
@[simp] theorem drawRead_total (s : State) : (drawRead s).total = s.total := rfl
@[simp] theorem drawRead_darkCount (s : State) : (drawRead s).darkCount = s.darkCount := rfl
@[simp] theorem drawRead_bestScore (s : State) : (drawRead s).bestScore = s.bestScore := rfl
@[simp] theorem drawRead_bestValid (s : State) : (drawRead s).bestValid = s.bestValid := rfl
@[simp] theorem drawRead_bestMaskId (s : State) : (drawRead s).bestMaskId = s.bestMaskId := rfl
@[simp] theorem drawRead_placeConsumed (s : State) : (drawRead s).placeConsumed = s.placeConsumed := rfl
@[simp] theorem drawRead_placeDefaulted (s : State) : (drawRead s).placeDefaulted = s.placeDefaulted := rfl
@[simp] theorem drawRead_cw (s : State) : (drawRead s).cw = s.cw := rfl
@[simp] theorem drawRead_mem (s : State) : (drawRead s).mem = s.mem := rfl
@[simp] theorem drawRead_rem (s : State) : (drawRead s).rem = s.rem := rfl
@[simp] theorem drawRead_walker (s : State) : (drawRead s).walker = s.walker := rfl
@[simp] theorem drawRead_scorer (s : State) : (drawRead s).scorer = s.scorer := rfl

/-! ### popEvent -/

@[simp] theorem popEvent_events (s : State) : (popEvent s).events = s.events.tail := rfl
@[simp] theorem popEvent_reads (s : State) : (popEvent s).reads = s.reads := rfl
@[simp] theorem popEvent_draws (s : State) : (popEvent s).draws = s.draws := rfl
@[simp] theorem popEvent_pending (s : State) : (popEvent s).pending = s.pending := rfl
@[simp] theorem popEvent_clearing (s : State) : (popEvent s).clearing = s.clearing := rfl
@[simp] theorem popEvent_err (s : State) : (popEvent s).err = s.err := rfl
@[simp] theorem popEvent_stickyErr (s : State) : (popEvent s).stickyErr = s.stickyErr := rfl
@[simp] theorem popEvent_ovr (s : State) : (popEvent s).ovr = s.ovr := rfl
@[simp] theorem popEvent_p1Run (s : State) : (popEvent s).p1Run = s.p1Run := rfl
@[simp] theorem popEvent_p2Block (s : State) : (popEvent s).p2Block = s.p2Block := rfl
@[simp] theorem popEvent_p3Finder (s : State) : (popEvent s).p3Finder = s.p3Finder := rfl
@[simp] theorem popEvent_p4Balance (s : State) : (popEvent s).p4Balance = s.p4Balance := rfl
@[simp] theorem popEvent_total (s : State) : (popEvent s).total = s.total := rfl
@[simp] theorem popEvent_darkCount (s : State) : (popEvent s).darkCount = s.darkCount := rfl
@[simp] theorem popEvent_bestScore (s : State) : (popEvent s).bestScore = s.bestScore := rfl
@[simp] theorem popEvent_bestValid (s : State) : (popEvent s).bestValid = s.bestValid := rfl
@[simp] theorem popEvent_bestMaskId (s : State) : (popEvent s).bestMaskId = s.bestMaskId := rfl
@[simp] theorem popEvent_placeConsumed (s : State) : (popEvent s).placeConsumed = s.placeConsumed := rfl
@[simp] theorem popEvent_placeDefaulted (s : State) : (popEvent s).placeDefaulted = s.placeDefaulted := rfl
@[simp] theorem popEvent_cw (s : State) : (popEvent s).cw = s.cw := rfl
@[simp] theorem popEvent_mem (s : State) : (popEvent s).mem = s.mem := rfl
@[simp] theorem popEvent_rem (s : State) : (popEvent s).rem = s.rem := rfl
@[simp] theorem popEvent_walker (s : State) : (popEvent s).walker = s.walker := rfl
@[simp] theorem popEvent_scorer (s : State) : (popEvent s).scorer = s.scorer := rfl

end Sys2Proof.Machine
end

