-- ==== Sys2Proof/Laws/Bus.lean ====
section
/-! SUPPORT. Where bus addresses lead, and what a host access does. -/

namespace Sys2Proof.Machine

/-- Clearing bits 1:0 of an address rounds it down to a multiple of 4. -/
theorem wordAddr_eq (a : Addr) : wordAddr a = a.toNat / 4 * 4 := by
  have h : a &&& 0x3FFC#14 = BitVec.ofNat 14 (a.toNat / 4 * 4) := by
    revert a; decide +kernel
  have ha := a.isLt
  rw [wordAddr, h, BitVec.toNat_ofNat, Nat.mod_eq_of_lt (by omega)]

theorem registerMap_lookup_none (w : Nat) (h : 0x30 < w) : registerMap.lookup w = none := by
  have e : ∀ n, n ≤ 0x30 → (w == n) = false := fun n hn => by simp; omega
  simp [registerMap, List.lookup, e]

theorem locateWord_codeword (w : Nat) (h1 : 0x400 ≤ w) (h2 : w < 0x590) :
    locateWord w = .codeword ((w - 0x400) / 4) := by
  have c1 : codewordAddr 0 = 0x400 := rfl
  have c2 : codewordAddr Config.hw.cwCap = 0x590 := rfl
  rw [locateWord, registerMap_lookup_none w (by omega)]
  simp only [c1, c2]
  rw [if_pos ⟨h1, h2⟩]

theorem locateWord_cell (w : Nat) (h1 : 0x1000 ≤ w) (h2 : w < 0x2104) :
    locateWord w = .cell ((w - 0x1000) / 4 / 33) ((w - 0x1000) / 4 % 33) := by
  have c1 : codewordAddr 0 = 0x400 := rfl
  have c2 : codewordAddr Config.hw.cwCap = 0x590 := rfl
  have c3 : cellAddr 0 0 = 0x1000 := rfl
  have c4 : cellAddr gridSide 0 = 0x2104 := rfl
  rw [locateWord, registerMap_lookup_none w (by omega)]
  simp only [c1, c2, c3, c4]
  rw [if_neg (by omega), if_pos ⟨h1, h2⟩]
  rfl

theorem locateWord_unmapped (w : Nat)
    (h : (0x34 ≤ w ∧ w < 0x400) ∨ (0x590 ≤ w ∧ w < 0x1000) ∨ 0x2104 ≤ w) : locateWord w = .unmapped := by
  have c1 : codewordAddr 0 = 0x400 := rfl
  have c2 : codewordAddr Config.hw.cwCap = 0x590 := rfl
  have c3 : cellAddr 0 0 = 0x1000 := rfl
  have c4 : cellAddr gridSide 0 = 0x2104 := rfl
  rw [locateWord, registerMap_lookup_none w (by omega)]
  simp only [c1, c2, c3, c4]
  rw [if_neg (by omega), if_neg (by omega)]

/-- Every location that an address leads to is inside its RAM. -/
theorem locate_bounds (a : Addr) :
    (∀ i, locate a = .codeword i → i < 100) ∧ (∀ r c, locate a = .cell r c → r < 33 ∧ c < 33) := by
  have ha := wordAddr_eq a
  unfold locate
  generalize wordAddr a = w at ha
  by_cases h0 : w ≤ 0x30
  · have h4 : w = 0 ∨ w = 4 ∨ w = 8 ∨ w = 12 ∨ w = 16 ∨ w = 20 ∨ w = 24 ∨ w = 28 ∨ w = 32 ∨ w = 36 ∨ w = 40 ∨
        w = 44 ∨ w = 48 := by omega
    rcases h4 with h | h | h | h | h | h | h | h | h | h | h | h | h <;> subst h <;>
      exact ⟨fun _ h => (nomatch h), fun _ _ h => (nomatch h)⟩
  · by_cases h1 : 0x400 ≤ w ∧ w < 0x590
    · rw [locateWord_codeword w h1.1 h1.2]
      refine ⟨fun i h => ?_, fun _ _ h => nomatch h⟩
      cases h
      omega
    · by_cases h2 : 0x1000 ≤ w ∧ w < 0x2104
      · rw [locateWord_cell w h2.1 h2.2]
        refine ⟨fun _ h => (nomatch h), fun r c h => ?_⟩
        cases h
        omega
      · rw [locateWord_unmapped w (by omega)]
        exact ⟨fun _ h => (nomatch h), fun _ _ h => (nomatch h)⟩

/-- What a host read can do: answer the location's word, or draw a free one while BUSY = 1. -/
theorem hostRead_cases (a : Addr) (s : State) :
    hostRead a s = answerRead (locationWord s (locate a)) s ∨ (busy s = true ∧ hostRead a s = drawRead s) := by
  unfold hostRead
  split
  · next h => exact .inr ⟨by simp_all, rfl⟩
  · exact .inl rfl

/-- What a host write can do, by where it leads. -/
theorem hostWrite_cases (a : Addr) (v : Word) (s : State) :
    (busy s = true ∧ hostWrite a v s = { s with ovr := true }) ∨
    (busy s = false ∧
      (hostWrite a v s = { s with pending := some v } ∨ hostWrite a v s = clearStatusBits v s ∨
        hostWrite a v s = s ∨
        (∃ i, i < 100 ∧ hostWrite a v s = { s with cw := s.cw.setIfInBounds i (v.setWidth 8) }) ∨
        ∃ r c x, r < 33 ∧ c < 33 ∧ hostWrite a v s = { s with mem := setCell s.mem r c x })) := by
  unfold hostWrite
  cases hb : busy s
  · refine .inr ⟨rfl, ?_⟩
    have hbounds := locate_bounds a
    simp only [Bool.false_eq_true, if_false]
    cases hl : locate a with
    | register name => cases name <;> simp [writeLocation]
    | codeword i => exact .inr (.inr (.inr (.inl ⟨i, hbounds.1 i hl, rfl⟩)))
    | cell r c => exact .inr (.inr (.inr (.inr ⟨r, c, _, (hbounds.2 r c hl).1, (hbounds.2 r c hl).2, rfl⟩)))
    | unmapped => exact .inr (.inr (.inl rfl))
  · exact .inl ⟨rfl, by simp⟩

end Sys2Proof.Machine
end

