-- ==== Sys2Proof/Laws/Commands.lean ====
section
/-! SUPPORT. The meanings case by case: which check fails, or which named update the command performs. -/

namespace Sys2Proof.Machine

@[simp] theorem succeed_eq (s : State) : succeed s = .next (complete .ok s) := rfl

@[simp] theorem raiseError_eq (code : ErrCode) (s : State) : raiseError code s = .next (complete code s) := rfl

@[simp] theorem cwCap_hw : Config.hw.cwCap = 100 := rfl

@[simp] theorem maskDefaultBits_hw : Config.hw.maskDefaultBits = true := rfl

theorem versionLegal_iff (ver : Nat) : versionLegal Config.hw ver = true ↔ ver ∈ [1, 2, 3, 4] := by
  simp [versionLegal, Config.hw]

theorem eccLengthLegal_iff (e : Nat) : eccLengthLegal Config.hw e = true ↔ e ∈ [7, 10, 15, 20] := by
  simp [eccLengthLegal, Config.hw]

/-- RSENC: the first failing check, or the store. -/
theorem execRsenc_eq (k e : Nat) (s : State) :
    execRsenc k e s = .next (
      if e ∉ [7, 10, 15, 20] then complete .eccLen s
      else if 100 < k + e then complete .range s
      else complete .ok (recordEcc k (eccOf s.cw k e) s)) := by
  have h := eccLengthLegal_iff e
  unfold execRsenc
  by_cases he : e ∈ [7, 10, 15, 20]
  · rw [if_neg (by simp [h.mpr he]), if_neg (not_not_intro he)]
    simp only [cwCap_hw, raiseError_eq, succeed_eq]
    exact (apply_ite Host.Outcome.next _ _ _).symm
  · rw [if_pos (by simpa using fun h' => he (h.mp h')), if_pos he, raiseError_eq]

/-- PLACE: the first failing check, or the walk. -/
theorem execPlace_eq (ver mask l : Nat) (s : State) :
    execPlace ver mask l s = .next (
      if ver ∉ [1, 2, 3, 4] then complete .version s
      else if 100 < l then complete .range s
      else complete .ok (
        let p := placeAll Config.hw s.cw mask l s.mem (sideLength ver)
        recordPlace p.mem p.used p.defaulted s)) := by
  have h := versionLegal_iff ver
  unfold execPlace
  by_cases hv : ver ∈ [1, 2, 3, 4]
  · rw [if_neg (by simp [h.mpr hv]), if_neg (not_not_intro hv)]
    simp only [cwCap_hw, raiseError_eq, succeed_eq]
    exact (apply_ite Host.Outcome.next _ _ _).symm
  · rw [if_pos (by simpa using fun h' => hv (h.mp h')), if_pos hv, raiseError_eq]

/-- The corner is finished when no cell of it is UNASSIGNED. -/
theorem cornerFinished_iff (m : Memory) (side : Nat) :
    cornerFinished (corner m side) = true ↔ ∀ r < side, ∀ c < side, cellAt m r c ≠ .unassigned := by
  simp [cornerFinished, corner, List.all_eq_true]

/-- SCORE: the first failing check, or the results and the tracker. -/
theorem execScore_eq (ver mask : Nat) (s : State) :
    execScore ver mask s = .next (
      if ver ∉ [1, 2, 3, 4] then complete .version s
      else if cornerFinished (corner s.mem (sideLength ver)) = false then complete .unassigned s
      else complete .ok (scorePicture (darkRows (corner s.mem (sideLength ver))) (sideLength ver) mask s)) := by
  have h := versionLegal_iff ver
  unfold execScore
  by_cases hv : ver ∈ [1, 2, 3, 4]
  · rw [if_neg (by simp [h.mpr hv]), if_neg (not_not_intro hv)]
    simp only [raiseError_eq, succeed_eq, Bool.not_eq_true']
    exact (apply_ite Host.Outcome.next _ _ _).symm
  · rw [if_pos (by simpa using fun h' => hv (h.mp h')), if_pos hv, raiseError_eq]

/-- The tracker's update changes the tracker only. -/
theorem updateBest_eq (mask : Nat) (score : Word) (s : State) :
    updateBest mask score s = { s with
      bestScore := (updateBest mask score s).bestScore
      bestValid := (updateBest mask score s).bestValid
      bestMaskId := (updateBest mask score s).bestMaskId } := by
  unfold updateBest
  split <;> rfl

end Sys2Proof.Machine
end

