-- ==== Sys2Proof/Laws/Decode.lean ====
section
/-! SUPPORT. Command words as numbers: fields, encoded words, and legal(w) as a statement about the decoder's fields. -/

namespace Sys2Proof

/-- A field of a word as a quotient and a remainder. -/
theorem bits_eq (w : Word) (hi lo : Nat) : bits w hi lo = w.toNat / 2 ^ lo % 2 ^ (hi - lo + 1) := by
  simp [bits, BitVec.extractLsb_toNat, Nat.shiftRight_eq_div_pow]

/-- A field as the number n is the field as the bits of n. -/
theorem bits_eq_iff (w : Word) (hi lo n : Nat) (hn : n < 2 ^ (hi - lo + 1)) :
    bits w hi lo = n ↔ w.extractLsb hi lo = BitVec.ofNat _ n := by
  unfold bits
  constructor
  · intro h
    apply BitVec.eq_of_toNat_eq
    rw [h, BitVec.toNat_ofNat, Nat.mod_eq_of_lt hn]
  · intro h
    rw [h, BitVec.toNat_ofNat, Nat.mod_eq_of_lt hn]

/-- The word of a well-formed command as a number. -/
theorem encode_toNat {i : Instr} (h : WellFormed i) :
    (encode i).toNat = opcodeOf i * 0x10000000 + operandBits i := by
  rw [encode, BitVec.toNat_ofNat]
  apply Nat.mod_eq_of_lt
  cases i <;> simp only [opcodeOf, operandBits] <;> omega

end Sys2Proof
end

