-- ==== Sys2Proof/Laws/Field.lean ====
section
/-! SUPPORT. What the field's multiplication and the division circuit do: linearity, zero, induction over bytes, lengths. -/

namespace Sys2Proof.Machine

/-- One turn of the shift is linear. -/
theorem gfDouble_xor (a b : Byte) : gfDouble Config.hw (a ^^^ b) = gfDouble Config.hw a ^^^ gfDouble Config.hw b := by
  unfold gfDouble Config.hw
  dsimp only
  have h : (((a ^^^ b).setWidth 9 <<< 1 : BitVec 9).getLsbD 8) = (((a.setWidth 9 <<< 1 : BitVec 9).getLsbD 8) ^^ ((b.setWidth 9 <<< 1 : BitVec 9).getLsbD 8)) := by
    simp
  have h2 : ((a ^^^ b).setWidth 9 <<< 1 : BitVec 9) = (a.setWidth 9 <<< 1) ^^^ (b.setWidth 9 <<< 1) := by
    rw [BitVec.setWidth_xor, BitVec.shiftLeft_xor_distrib]
  rw [h, h2]
  cases (a.setWidth 9 <<< 1 : BitVec 9).getLsbD 8 <;> cases (b.setWidth 9 <<< 1 : BitVec 9).getLsbD 8 <;> simp [BitVec.setWidth_xor]
  · ac_rfl
  · ac_rfl
  · have : ∀ x y z : BitVec 8, x ^^^ z ^^^ (y ^^^ z) = x ^^^ y := by
      intro x y z; calc
        _ = x ^^^ y ^^^ (z ^^^ z) := by ac_rfl
        _ = _ := by simp
    exact (this _ _ _).symm

/-- The product so far is only added to. -/
theorem gfMulLoop_acc (t i : Nat) (p a b : Byte) : gfMulLoop Config.hw t i p a b = p ^^^ gfMulLoop Config.hw t i 0#8 a b := by
  induction t generalizing i p a with
  | zero => simp [gfMulLoop]
  | succ t ih =>
    rw [gfMulLoop, gfMulLoop, ih, ih (i+1) (if b.getLsbD i = true then 0#8 ^^^ a else 0#8)]
    split
    · simp [BitVec.xor_assoc]
    · simp

/-- The loop is linear in its first factor. -/
theorem gfMulLoop_xor_left (t i : Nat) (a a' b : Byte) : gfMulLoop Config.hw t i 0#8 (a ^^^ a') b = gfMulLoop Config.hw t i 0#8 a b ^^^ gfMulLoop Config.hw t i 0#8 a' b := by
  induction t generalizing i a a' with
  | zero => simp [gfMulLoop]
  | succ t ih =>
    rw [gfMulLoop, gfMulLoop, gfMulLoop, gfDouble_xor, gfMulLoop_acc, ih, gfMulLoop_acc t (i+1) (if b.getLsbD i = true then 0#8 ^^^ a else 0#8), gfMulLoop_acc t (i+1) (if b.getLsbD i = true then 0#8 ^^^ a' else 0#8)]
    split
    · simp; ac_rfl
    · simp

/-- The loop is linear in its second factor. -/
theorem gfMulLoop_xor_right (t i : Nat) (a b b' : Byte) : gfMulLoop Config.hw t i 0#8 a (b ^^^ b') = gfMulLoop Config.hw t i 0#8 a b ^^^ gfMulLoop Config.hw t i 0#8 a b' := by
  induction t generalizing i a with
  | zero => simp [gfMulLoop]
  | succ t ih =>
    rw [gfMulLoop, gfMulLoop, gfMulLoop, gfMulLoop_acc, ih, gfMulLoop_acc t (i+1) (if b.getLsbD i = true then 0#8 ^^^ a else 0#8), gfMulLoop_acc t (i+1) (if b'.getLsbD i = true then 0#8 ^^^ a else 0#8)]
    rw [BitVec.getLsbD_xor]
    cases b.getLsbD i <;> cases b'.getLsbD i <;> simp
    · ac_rfl
    · ac_rfl
    · have : ∀ x y z : BitVec 8, z ^^^ x ^^^ (z ^^^ y) = x ^^^ y := by
        intro x y z; calc
          _ = x ^^^ y ^^^ (z ^^^ z) := by ac_rfl
          _ = _ := by simp
      exact (this _ _ _).symm

theorem gfMul_xor_left (a a' b : Byte) : gfMul Config.hw (a ^^^ a') b = gfMul Config.hw a b ^^^ gfMul Config.hw a' b := gfMulLoop_xor_left 8 0 a a' b
theorem gfMul_xor_right (a b b' : Byte) : gfMul Config.hw a (b ^^^ b') = gfMul Config.hw a b ^^^ gfMul Config.hw a b' := gfMulLoop_xor_right 8 0 a b b'
theorem gfMul_zero_left (b : Byte) : gfMul Config.hw 0#8 b = 0#8 := by
  have := gfMul_xor_left 0#8 0#8 b
  simpa using this
theorem gfMul_zero_right (b : Byte) : gfMul Config.hw b 0#8 = 0#8 := by
  have := gfMul_xor_right b 0#8 0#8
  simpa using this

/-- A claim that holds of 0, of the eight single bits, and of a sum when it holds of both terms, holds of every byte. -/
theorem byte_induction {P : Byte → Prop} (h0 : P 0#8) (hx : ∀ a b, P a → P b → P (a ^^^ b)) (hb : ∀ i < 8, P (BitVec.twoPow 8 i)) (a : Byte) : P a := by
  have hb' : ∀ i < 8, P (a &&& BitVec.twoPow 8 i) := by
    intro i hi
    rw [BitVec.and_twoPow]
    split
    · exact hb i hi
    · exact h0
  have : a = (a &&& BitVec.twoPow 8 0) ^^^ ((a &&& BitVec.twoPow 8 1) ^^^ ((a &&& BitVec.twoPow 8 2) ^^^ ((a &&& BitVec.twoPow 8 3) ^^^ ((a &&& BitVec.twoPow 8 4) ^^^ ((a &&& BitVec.twoPow 8 5) ^^^ ((a &&& BitVec.twoPow 8 6) ^^^ (a &&& BitVec.twoPow 8 7))))))) := by
    clear hb'; revert a; decide +kernel
  rw [this]
  exact hx _ _ (hb' 0 (by omega)) (hx _ _ (hb' 1 (by omega)) (hx _ _ (hb' 2 (by omega)) (hx _ _ (hb' 3 (by omega)) (hx _ _ (hb' 4 (by omega)) (hx _ _ (hb' 5 (by omega)) (hx _ _ (hb' 6 (by omega)) (hb' 7 (by omega))))))))

/-- The ROM has E entries for each legal E. -/
theorem length_generatorRom (e : Nat) (he : e ∈ [7, 10, 15, 20]) : (generatorRom Config.hw e).length = e := by
  simp only [List.mem_cons, List.not_mem_nil, or_false] at he
  rcases he with rfl | rfl | rfl | rfl <;> rfl

/-- A step of the division keeps the register as long as the generator. -/
theorem length_shiftRegisterStep (cfg : Config) (g r : List Byte) (d : Byte) (h : r.length = g.length)
    (hp : 0 < g.length) : (shiftRegisterStep cfg g r d).length = g.length := by
  simp [shiftRegisterStep]; omega

/-- So does the whole division. -/
theorem length_foldl_shiftRegisterStep (cfg : Config) (g ds r : List Byte) (h : r.length = g.length)
    (hp : 0 < g.length) : (ds.foldl (shiftRegisterStep cfg g) r).length = g.length := by
  induction ds generalizing r with
  | nil => exact h
  | cons d ds ih => exact ih _ (length_shiftRegisterStep cfg g r d h hp)

/-- The remainder of a legal division has E coefficients. -/
theorem length_rsRemainder (data : List Byte) (e : Nat) (he : e ∈ [7, 10, 15, 20]) :
    (rsRemainder Config.hw data e).length = e := by
  have hl := length_generatorRom e he
  have hp : 0 < (generatorRom Config.hw e).length := by
    simp only [List.mem_cons, List.not_mem_nil, or_false] at he
    omega
  rw [rsRemainder, length_foldl_shiftRegisterStep Config.hw _ data _ (by simp [hl]) hp, hl]

end Sys2Proof.Machine
end

