-- ==== Sys2Proof/Laws/PerInstr.lean ====
section
/-! SUPPORT. Statements about every command as syntax, one lemma for each constructor. -/

namespace Sys2Proof.Laws

/-- The word of a well-formed command carries its opcode in bits 31:28 (30_encoding.md R91, R92). -/
def OpcodeField.Statement (i : Instr) : Prop := WellFormed i → bits (encode i) 31 28 = opcodeOf i

theorem OpcodeField.nop : OpcodeField.Statement .nop := fun _ => by decide

theorem OpcodeField.clrg : OpcodeField.Statement .clrg := fun _ => by decide

theorem OpcodeField.rsenc (k e : Nat) : OpcodeField.Statement (.rsenc k e) := fun h => by
  rw [bits_eq, encode_toNat h]
  simp only [opcodeOf, operandBits] at *
  omega

theorem OpcodeField.place (ver mask l : Nat) : OpcodeField.Statement (.place ver mask l) := fun h => by
  rw [bits_eq, encode_toNat h]
  simp only [opcodeOf, operandBits] at *
  omega

theorem OpcodeField.score (ver mask : Nat) : OpcodeField.Statement (.score ver mask) := fun h => by
  rw [bits_eq, encode_toNat h]
  simp only [opcodeOf, operandBits] at *
  omega

theorem OpcodeField.clrbest : OpcodeField.Statement .clrbest := fun _ => by decide

end Sys2Proof.Laws
end

