-- ==== Sys2Proof/Laws/Placer.lean ====
section
/-! SUPPORT. The walk as a set of positions, and what a fold of the placer over positions of their own leaves. -/

namespace Sys2Proof.Machine

/-! ### The walk -/

theorem mem_stripRows (side t r : Nat) : r ∈ stripRows side t ↔ r < side := by
  unfold stripRows
  split <;> simp

theorem mem_stripWalk (side t r c : Nat) :
    (r, c) ∈ stripWalk side t ↔ r < side ∧ (c = stripRightColumn side t ∨ c = stripRightColumn side t - 1) := by
  simp only [stripWalk, List.mem_flatMap, mem_stripRows, List.mem_cons, Prod.mk.injEq, List.not_mem_nil, or_false]
  constructor
  · rintro ⟨a, ha, (⟨rfl, rfl⟩ | ⟨rfl, rfl⟩)⟩ <;> simp [ha]
  · rintro ⟨hr, rfl | rfl⟩
    · exact ⟨r, hr, .inl ⟨rfl, rfl⟩⟩
    · exact ⟨r, hr, .inr ⟨rfl, rfl⟩⟩

/-- A position is on the walk when its row is in the grid and its column is one of a strip's two. -/
theorem mem_walk (side r c : Nat) :
    (r, c) ∈ walk side ↔
      r < side ∧ ∃ t ∈ stripNumbers side, c = stripRightColumn side t ∨ c = stripRightColumn side t - 1 := by
  simp only [walk, List.mem_flatMap, mem_stripWalk]
  constructor
  · rintro ⟨t, ht, hr, hc⟩
    exact ⟨hr, t, ht, hc⟩
  · rintro ⟨hr, t, ht, hc⟩
    exact ⟨t, ht, hr, hc⟩

theorem nodup_stripRows (side t : Nat) : (stripRows side t).Nodup := by
  unfold stripRows
  split <;> simp [List.nodup_range]

theorem nodup_stripWalk (side t : Nat) (h : 0 < stripRightColumn side t) : (stripWalk side t).Nodup := by
  rw [stripWalk, List.nodup_flatMap]
  refine ⟨fun r _ => by simp; omega, (nodup_stripRows side t).imp ?_⟩
  intro a b hab
  simp only [Function.onFun, List.disjoint_left]
  simp
  omega

/-- Strips with columns of their own make a walk without repeats. -/
theorem nodup_walk (side : Nat) (h : ∀ t ∈ stripNumbers side, 0 < stripRightColumn side t)
    (hd : (stripNumbers side).Pairwise fun t u => stripRightColumn side u + 1 < stripRightColumn side t) :
    (walk side).Nodup := by
  rw [walk, List.nodup_flatMap]
  refine ⟨fun t ht => nodup_stripWalk side t (h t ht), hd.imp ?_⟩
  intro t u htu
  simp only [Function.onFun, List.disjoint_left, Prod.forall, mem_stripWalk]
  omega

theorem length_stripWalk (side t : Nat) : (stripWalk side t).length = 2 * side := by
  simp [stripWalk, List.length_flatMap, stripRows]
  split <;> simp <;> omega

theorem length_walk (side : Nat) : (walk side).length = (side - 1) / 2 * (2 * side) := by
  have h : (stripNumbers side).length = (side - 1) / 2 := by simp [stripNumbers]
  rw [walk, List.length_flatMap]
  simp only [length_stripWalk, List.map_const', List.sum_replicate, h, smul_eq_mul]

/-! ### The fold over positions -/

/-- The address of a position's cell. -/
def positionAddr (pos : Nat × Nat) : Nat := cellAddr pos.1 pos.2

/-- The counters after n data modules: stream bits first, default bits from 8·l on. -/
def Counted (l : Nat) (p : Placing) (n : Nat) : Prop := p.used = min n (8 * l) ∧ p.defaulted = n - 8 * l

/-- The colour of the data module with n data modules before it. -/
def paintColour {entries : Nat} (cw : Vector Byte entries) (mask l n r c : Nat) : Colour :=
  if (decide (n < 8 * l) && streamBit cw n) ^^ maskOn mask r c then .dark else .light

theorem moduleColour_hw {entries : Nat} (cw : Vector Byte entries) (mask l n r c : Nat) :
    moduleColour Config.hw cw mask l (min n (8*l)) r c = paintColour cw mask l n r c := by
  unfold moduleColour paintColour
  have : Config.hw.maskDefaultBits = true := rfl
  by_cases h : n < 8 * l
  · have : min n (8*l) = n := by omega
    simp [this, h, Config.hw]
  · have : min n (8*l) = 8 * l := by omega
    simp [this, h, Config.hw]

theorem moduleColour_ne {entries : Nat} (cfg : Config) (cw : Vector Byte entries) (mask l n r c : Nat) : moduleColour cfg cw mask l n r c ≠ .unassigned := by
  unfold moduleColour; dsimp only; split <;> simp

theorem placeCell_unassigned {entries : Nat} (cw : Vector Byte entries) (mask l : Nat) (p : Placing) (pos : Nat × Nat) (n : Nat) (hc : Counted l p n)
    (h : cellAt p.mem pos.1 pos.2 = .unassigned) :
    placeCell Config.hw cw mask l p pos =
      ⟨setCell p.mem pos.1 pos.2 (paintColour cw mask l n pos.1 pos.2), min (n+1) (8*l), n + 1 - 8 * l⟩ := by
  obtain ⟨h1, h2⟩ := hc
  unfold placeCell
  rw [h]
  simp only [h1, moduleColour_hw, h2]
  congr 1
  · split <;> omega
  · split <;> omega

theorem placeCell_assigned {entries : Nat} (cw : Vector Byte entries) (mask l : Nat) (p : Placing) (pos : Nat × Nat) 
    (h : cellAt p.mem pos.1 pos.2 ≠ .unassigned) :
    placeCell Config.hw cw mask l p pos = p := by
  unfold placeCell
  split
  · contradiction
  · rfl
  · rfl

theorem freeModules_congr {m m' : Memory} (ps) (h : ∀ pos ∈ ps, cellAt m pos.1 pos.2 = cellAt m' pos.1 pos.2) : freeModules m ps = freeModules m' ps := by
  unfold freeModules
  apply List.countP_congr
  intro x hx; simp [h x hx]

/-- What the placer leaves, from n data modules on, over positions with addresses of their own: the counters, every address that is no
data module's, and the cell of each position. -/
theorem placeFold_spec {entries : Nat} (cw : Vector Byte entries) (mask l : Nat) (ps : List (Nat × Nat)) (hd : ps.Pairwise (fun x y => positionAddr x ≠ positionAddr y)) (p : Placing) (n : Nat) (hc : Counted l p n) :
    let q := ps.foldl (placeCell Config.hw cw mask l) p
    Counted l q (n + freeModules p.mem ps) ∧
    (∀ a, (∀ pos ∈ ps, cellAt p.mem pos.1 pos.2 = .unassigned → a ≠ positionAddr pos) → q.mem.read a = p.mem.read a) ∧
    (∀ j (hj : j < ps.length), cellAt q.mem ps[j].1 ps[j].2 =
      if cellAt p.mem ps[j].1 ps[j].2 = .unassigned then paintColour cw mask l (n + freeModules p.mem (ps.take j)) ps[j].1 ps[j].2 else cellAt p.mem ps[j].1 ps[j].2) := by
  induction ps generalizing p n with
  | nil => simpa [freeModules] using hc
  | cons x ps ih =>
    rw [List.pairwise_cons] at hd
    by_cases h : cellAt p.mem x.1 x.2 = .unassigned
    · have hstep := placeCell_unassigned cw mask l p x n hc h
      have hoth : ∀ pos ∈ ps, cellAt (setCell p.mem x.1 x.2 (paintColour cw mask l n x.1 x.2)) pos.1 pos.2 = cellAt p.mem pos.1 pos.2 :=
        fun pos hp => cellAt_setCell_other _ _ _ _ _ _ (Ne.symm (hd.1 pos hp))
      have hc' : Counted l ⟨setCell p.mem x.1 x.2 (paintColour cw mask l n x.1 x.2), min (n+1) (8*l), n + 1 - 8 * l⟩ (n+1) := ⟨rfl, rfl⟩
      obtain ⟨h1, h2, h3⟩ := ih hd.2 _ _ hc'
      simp only [List.foldl_cons, hstep]
      have hf : ∀ qs, (∀ y ∈ qs, y ∈ ps) → freeModules (setCell p.mem x.1 x.2 (paintColour cw mask l n x.1 x.2)) qs = freeModules p.mem qs :=
        fun qs hqs => freeModules_congr qs fun pos hp => hoth pos (hqs pos hp)
      have hcons : ∀ qs, freeModules p.mem (x :: qs) = freeModules p.mem qs + 1 := fun qs => by simp [freeModules, h]
      refine ⟨?_, ?_, ?_⟩
      · rw [hcons]; rw [hf ps fun _ h => h] at h1
        rwa [show n + (freeModules p.mem ps + 1) = n + 1 + freeModules p.mem ps by omega]
      · intro a ha
        rw [h2 a fun pos hp hu => ha pos (by simp [hp]) (by rwa [hoth pos hp] at hu)]
        exact read_setCell_other _ _ _ _ _ (ha x (by simp) h)
      · intro j hj
        cases j with
        | zero =>
          simp only [List.getElem_cons_zero, h, if_true, List.take_zero]
          have hx : ((ps.foldl (placeCell Config.hw cw mask l) ⟨setCell p.mem x.1 x.2 (paintColour cw mask l n x.1 x.2), min (n+1) (8*l), n + 1 - 8 * l⟩).mem).read (cellAddr x.1 x.2) = (setCell p.mem x.1 x.2 (paintColour cw mask l n x.1 x.2)).read (cellAddr x.1 x.2) :=
            h2 _ fun pos hp _ => hd.1 pos hp
          rw [cellAt_congr hx, cellAt_setCell_same _ _ _ _ (.inr _)]
          · simp [freeModules]
          · unfold paintColour; split <;> simp
        | succ j =>
          simp only [List.getElem_cons_succ, List.take_succ_cons]
          have hj' : j < ps.length := by simpa using hj
          have := h3 j hj'
          rw [this, hoth _ (List.getElem_mem hj')]
          rw [hf _ fun y hy => List.mem_of_mem_take hy, hcons]
          rw [show n + (freeModules p.mem (ps.take j) + 1) = n + 1 + freeModules p.mem (ps.take j) by omega]
    · have hstep := placeCell_assigned cw mask l p x h
      obtain ⟨h1, h2, h3⟩ := ih hd.2 _ _ hc
      simp only [List.foldl_cons, hstep]
      have hcons : ∀ qs, freeModules p.mem (x :: qs) = freeModules p.mem qs := fun qs => by simp [freeModules, h]
      have hxr : ((ps.foldl (placeCell Config.hw cw mask l) p).mem).read (cellAddr x.1 x.2) = p.mem.read (cellAddr x.1 x.2) :=
        h2 _ fun pos hp _ => hd.1 pos hp
      refine ⟨by rwa [hcons], fun a ha => h2 a fun pos hp hu => ha pos (by simp [hp]) hu, ?_⟩
      intro j hj
      cases j with
      | zero => simp only [List.getElem_cons_zero, h, if_false]; exact cellAt_congr hxr
      | succ j =>
        simp only [List.getElem_cons_succ, List.take_succ_cons, hcons]
        exact h3 j (by simpa using hj)

/-- The walk keeps the memory's canonical form. -/
theorem placeAll_memory_wf {entries : Nat} (cfg : Config) (cw : Vector Byte entries) (mask l : Nat) (m : Memory) (side : Nat)
    (h : Memory.wf m) : Memory.wf (placeAll cfg cw mask l m side).mem := by
  suffices ∀ (ps : List (Nat × Nat)) (p : Placing), Memory.wf p.mem →
      Memory.wf (ps.foldl (placeCell cfg cw mask l) p).mem from this _ _ h
  intro ps
  induction ps with
  | nil => exact fun p hp => hp
  | cons x ps ih =>
    refine fun p hp => ih _ ?_
    unfold placeCell
    split
    · exact memory_wf_setCell _ _ _ _ hp
    · exact hp
    · exact hp

end Sys2Proof.Machine
end

