-- ==== Sys2Proof/Laws/Scorer.lean ====
section
/-! SUPPORT. The scorer's picture of a grid given cell by cell: its cells, its columns, and sums over its lines. -/

namespace Sys2Proof.Machine

/-- The S×S picture whose cell (r, c) is `f r c`, row by row. -/
def pictureOf (f : Nat → Nat → Bool) (side : Nat) : List (List Bool) :=
  (List.range side).map fun r => (List.range side).map fun c => f r c

/-- The picture that SCORE reads, as a function of the cells. -/
theorem darkRows_corner (m : Memory) (side : Nat) :
    darkRows (corner m side) = pictureOf (fun r c => decide (cellAt m r c = .dark)) side := by
  have h (x : Colour) : (x == .dark) = decide (x = .dark) := rfl
  simp [darkRows, corner, pictureOf, Function.comp_def, h]

theorem darkAt_pictureOf (f : Nat → Nat → Bool) (side r c : Nat) (hr : r < side) (hc : c < side) :
    darkAt (pictureOf f side) r c = f r c := by
  simp [darkAt, pictureOf, List.getD_eq_getElem?_getD, hr, hc]

theorem columnLine_pictureOf (f : Nat → Nat → Bool) (side c : Nat) (hc : c < side) :
    columnLine (pictureOf f side) c = (List.range side).map fun r => f r c := by
  simp [columnLine, pictureOf, List.getD_eq_getElem?_getD, hc]

/-- A sum over the 2·S lines is the sum over the rows and the sum over the columns. -/
theorem sum_gridLines_pictureOf (points : List Bool → Nat) (f : Nat → Nat → Bool) (side : Nat) :
    ((gridLines (pictureOf f side) side).map points).sum =
      ((List.range side).map fun r => points ((List.range side).map fun c => f r c)).sum +
      ((List.range side).map fun c => points ((List.range side).map fun r => f r c)).sum := by
  rw [gridLines, List.map_append, List.sum_append, List.map_map]
  congr 1
  · simp [pictureOf, Function.comp_def]
  · congr 1
    refine List.map_congr_left fun c hc => ?_
    rw [Function.comp, columnLine_pictureOf f side c (by simpa using hc)]

end Sys2Proof.Machine
end

