-- ==== Sys2Proof/Laws/Step.lean ====
section
/-! SUPPORT. Runs of several steps: one step at a time, in two parts, and over the polls of STATUS while BUSY = 1. -/

namespace Sys2Proof.Machine

/-- A run whose first step answers a next state goes on from there. -/
theorem run_succ_of_step (n : Nat) (s t : State) (h : step s = .next t) : core.run (n + 1) s = core.run n t := by
  simp only [Host.Core.run]
  rw [show core.step s = .next t from h]

/-- A run of n steps that ends in a next state goes on from there. -/
theorem run_add_of_run (n m : Nat) (s t : State) (h : core.run n s = .next t) : core.run (n + m) s = core.run m t := by
  induction n generalizing s with
  | zero =>
    rw [Nat.zero_add, show s = t from Host.Outcome.next.inj h]
  | succ n ih =>
    rw [Nat.succ_add]
    cases hs : step s with
    | next u =>
      rw [run_succ_of_step _ s u hs] at h ⊢
      exact ih u h
    | fault r => cases r
    | refused r =>
      simp only [Host.Core.run] at h
      rw [show core.step s = .refused r from hs] at h
      cases h

/-- A read of STATUS returns its word at any time and changes nothing else. -/
theorem hostRead_status (s : State) : hostRead 0x008#14 s = answerRead (statusWord s) s := by
  have h : locate 0x008#14 = .register .status := by decide
  simp [hostRead, h, exactWhileBusy, locationWord, registerWord]

/-- Polls of STATUS return its word each time and change nothing else. -/
theorem run_polls (n : Nat) (s : State) (rest : List Event)
    (h : s.events = List.replicate n (.read 0x008#14) ++ rest) :
    core.run n s = .next { s with events := rest, reads := List.replicate n (statusWord s) ++ s.reads } := by
  induction n generalizing s with
  | zero =>
    have h : s.events = rest := by simpa using h
    simp only [List.replicate_zero, List.nil_append, ← h]
    rfl
  | succ n ih =>
    have hs : step s = .next (answerRead (statusWord s)
        { s with events := List.replicate n (.read 0x008#14) ++ rest }) := by
      simp only [step, nextEvent, popEvent, h, List.replicate_succ, List.cons_append, List.headD_cons, List.tail_cons, move,
        hostRead_status]
      rfl
    rw [run_succ_of_step n s _ hs, ih _ rfl]
    simp only [answerRead, List.replicate_succ', List.append_assoc, List.cons_append, List.nil_append]
    rfl

end Sys2Proof.Machine
end

