-- ==== Sys2Proof/Tests/Slice0.lean ====
section
/-! SUPPORT. The model's own tests. Words are written out bit by bit from 30_encoding.md R91; other expected results are the vectors of
95_test_vectors.md, named in the comments. The last section shows, for every statement with hypotheses, values that meet them. -/

namespace Sys2Proof.Tests

open Sys2Proof Sys2Proof.Machine

/-! ### WellFormed refuses what no field can hold (R94) -/

theorem test_k_of_nine_bits_is_ill_formed : ¬ WellFormed (.rsenc 256 7) := by decide

theorem test_e_of_six_bits_is_ill_formed : ¬ WellFormed (.rsenc 19 32) := by decide

theorem test_place_ver_of_four_bits_is_ill_formed : ¬ WellFormed (.place 8 0 26) := by decide

theorem test_place_mask_of_five_bits_is_ill_formed : ¬ WellFormed (.place 1 16 26) := by decide

theorem test_l_of_nine_bits_is_ill_formed : ¬ WellFormed (.place 1 0 256) := by decide

theorem test_score_ver_of_four_bits_is_ill_formed : ¬ WellFormed (.score 8 0) := by decide

theorem test_score_mask_of_five_bits_is_ill_formed : ¬ WellFormed (.score 1 16) := by decide

theorem test_largest_fields_are_well_formed :
    WellFormed (.rsenc 255 31) ∧ WellFormed (.place 7 15 255) ∧ WellFormed (.score 7 15) := by decide

/-! ### Decoding, from words written out bit by bit (R91) -/

theorem test_decode_nop : decode 0b0000_0000000000000000000000000000 = .ok .nop := by decide

theorem test_decode_clrg : decode 0b0001_0000000000000000000000000000 = .ok .clrg := by decide

-- OPC 0010, zeros, E = 20 (10100), zeros, K = 80 (01010000)
theorem test_decode_rsenc : decode 0b0010_0000000_10100_00000000_01010000 = .ok (.rsenc 80 20) := by decide

-- OPC 0011, zeros, VER = 4 (100), MASK = 7 (0111), L = 100 (01100100)
theorem test_decode_place : decode 0b0011_0000000000000_100_0111_01100100 = .ok (.place 4 7 100) := by decide

-- OPC 0100, zeros, VER = 3 (011), MASK = 9 (1001), zeros
theorem test_decode_score : decode 0b0100_0000000000000_011_1001_00000000 = .ok (.score 3 9) := by decide

theorem test_decode_clrbest : decode 0b0101_0000000000000000000000000000 = .ok .clrbest := by decide

theorem test_reserved_opcodes_rejected :
    decode 0b0110_0000000000000000000000000000 = .error .reservedOpcode ∧
    decode 0b1111_0000000000000000000000000000 = .error .reservedOpcode := by decide

-- one reserved bit set, at each edge of each reserved field
theorem test_reserved_bits_rejected :
    [0x00000001#32, 0x08000000#32, 0x18000000#32, 0x20200000#32, 0x28000000#32, 0x20000100#32, 0x20008000#32,
      0x30008000#32, 0x38000000#32, 0x40008000#32, 0x40000001#32, 0x40000080#32, 0x50000001#32].all
        (fun w => decode w = .error .reservedBit) = true := by decide

theorem test_table_words :
    decodeTableWord 32 0x30004764 = some (.place 4 7 100) ∧ decodeTableWord 32 0x60000000 = none := by decide

theorem test_assembly_command_word : asmCommand (.score 4 15) = [.write 0x004#14 0x40004F00#32] := by decide

/-! ### Small states -/

/-- A boolean question about a next state. -/
def afterNext (o : Host.Outcome State Fault Refusal) (f : State → Bool) : Bool :=
  match o with
  | .next t => f t
  | .fault _ => false
  | .refused _ => false

/-- An idle machine with the byte b in every entry of CW. -/
def filled (b : Byte) : State := { State.reset with cw := Vector.replicate 100 b }

/-- A row-by-row grid of the S×S corner, its cells given by a function. -/
def cornerGrid (side : Nat) (f : Nat → Nat → Colour) : Memory :=
  ((List.range side).flatMap fun r => (List.range side).map fun c => (cellAddr r c, colourByte (f r c))).filter
    fun x => x.2 != Memory.unlisted

/-- A grid with the one cell (32, 32) DARK. -/
def lastCellDark : State := { State.reset with mem := [(cellAddr 32 32, colourByte .dark)] }

/-- The moves of a program, one step for each. -/
def play (moves : List Event) (s : State) : Host.Outcome State Fault Refusal :=
  core.run moves.length { s with events := moves }

/-! ### Control commands -/

-- V-CT-6
theorem test_nop_clears_err_keeps_sticky :
    afterNext (exec .nop { State.reset with err := .unassigned, stickyErr := true }) (fun t => statusWord t == 0x02) = true := by
  decide

theorem test_clrg_clears_the_last_cell :
    afterNext (exec .clrg lastCellDark) (fun t => cellAt t.mem 32 32 == .unassigned) = true := by decide

-- V-TR-6
theorem test_clrbest_empties_the_tracker :
    afterNext (exec .clrbest { State.reset with bestScore := 499, bestValid := true, bestMaskId := 6, total := 10 })
      (fun t => t.bestScore == 0 && bestMaskWord t == 0 && t.total == 10) = true := by decide

/-! ### RSENC -/

-- V-RS-7, and the entry after the last one
set_option maxRecDepth 4000 in
theorem test_rsenc_k1_e7 :
    afterNext (exec (.rsenc 1 7) (filled 0x80)) (fun t =>
      (List.range 9).map (bufferGet t.cw) == [0x80, 0x71, 0xCB, 0x92, 0xE4, 0xE9, 0xBD, 0x18, 0x80] && t.err == .ok) = true := by
  decide +kernel

-- V-RS-15, V-RS-16, and the order of the checks (R243)
theorem test_rsenc_checks :
    afterNext (exec (.rsenc 19 8) (filled 1)) (fun t => t.err == .eccLen) = true ∧
    afterNext (exec (.rsenc 81 20) (filled 1)) (fun t => t.err == .range) = true ∧
    afterNext (exec (.rsenc 255 8) (filled 1)) (fun t => t.err == .eccLen) = true := by decide

/-! ### PLACE -/

-- V-WK-1 to V-WK-6
theorem test_walk_positions :
    [0, 1, 2, 3, 40, 41, 42, 43, 44, 82, 83, 84, 85, 86, 416, 417, 418, 419].map (fun i => (walk 21).getD i (0, 0)) =
      [(20, 20), (20, 19), (19, 20), (19, 19), (0, 20), (0, 19), (0, 18), (0, 17), (1, 18), (20, 18), (20, 17), (20, 16),
        (20, 15), (19, 16), (19, 1), (19, 0), (20, 1), (20, 0)] := by decide +kernel

-- V-PL-1, on a grid whose other cells are LIGHT already
set_option maxRecDepth 4000 in
theorem test_place_eight_bits :
    afterNext
      (exec (.place 1 15 1)
        { filled 0xA5 with mem := cornerGrid 21 fun r c => if 17 ≤ r ∧ 19 ≤ c then .unassigned else .light })
      (fun t =>
        [(20, 20), (20, 19), (19, 20), (19, 19), (18, 20), (18, 19), (17, 20), (17, 19)].map
            (fun pos => cellAt t.mem pos.1 pos.2) ==
          [.dark, .light, .dark, .light, .light, .dark, .light, .dark] &&
        t.placeConsumed == 8 && t.placeDefaulted == 0) = true := by
  decide +kernel

/-! ### SCORE -/

/-- The all-LIGHT corner of version 1. -/
def lightGrid : Memory := cornerGrid 21 fun _ _ => .light

-- V-SC-1, with MASK = 3 so that the tracker takes it
set_option maxRecDepth 4000 in
theorem test_score_all_light :
    afterNext (exec (.score 1 3) { State.reset with mem := lightGrid }) (fun t =>
      t.p1Run == 798 && t.p2Block == 1200 && t.p3Finder == 0 && t.p4Balance == 90 && t.total == 2088 && t.darkCount == 0 &&
        bestMaskWord t == 0x80000003) = true := by
  decide +kernel

-- V-SC-5a: row 10 holds the finder core at columns 3 to 9
set_option maxRecDepth 4000 in
theorem test_score_picture_with_finder :
    let p := (List.range 21).map fun r => (List.range 21).map fun c =>
      decide (r = 10) && [3, 5, 6, 7, 9].contains c
    (penaltyRuns p 21, penaltyBlocks p 21, penaltyFinder p 21, penaltyBalance p 21, penaltyTotal p 21, darkCells p) =
      (773, 1152, 80, 90, 2095, 5) := by
  decide +kernel

-- V-TR-1 to V-TR-5
theorem test_tracker_sequence :
    let go := fun (s : State) (x : Nat × Word) => updateBest x.1 x.2 s
    let t := ([(3, 500), (5, 500), (1, 500), (6, 499), (15, 10)] : List (Nat × Word)).foldl go State.reset
    t.bestScore = 499 ∧ bestMaskWord t = 0x80000006 := by decide

/-! ### The step and the bus -/

theorem test_step_runs_the_fetched_word :
    afterNext (step (State.reset.withFetchWord 32 0x20080013)) (fun t => statusWord t == 0x32) = true := by decide

-- V-CT-3, V-CT-4: the low bits of a cell's word; newest read first
theorem test_cell_codes_are_normalised :
    afterNext (play (asmWr (cellAddr 3 4) 1 ++ asmRdcell 3 4 ++ asmWr (cellAddr 3 4) 0xFFFFFFFF ++ asmRdcell 3 4) State.reset)
      (fun t => t.reads == [3, 0]) = true := by decide

-- V-CT-5
theorem test_codeword_takes_the_low_byte :
    afterNext (play (asmWrcw 5 0x12345678 ++ asmRdcw 5 ++ asmRd 0x000) (filled 0)) (fun t => t.reads == [0x51524331, 0x78]) = true := by
  decide

-- R275: the second command word is dropped and sets OVR
theorem test_busy_write_sets_overrun :
    afterNext (play (asmCommand .clrg ++ asmCommand .nop ++ asmWait 1) State.reset) (fun t => t.reads == [0x04, 0x05]) = true := by
  decide

/-! ### Witnesses: values that meet the hypotheses of the statements -/

/-- A version-1 PLACE of any legal length completes without an error, on any grid. -/
theorem place_completes (mask l : Nat) (s : State) (hl : l ≤ 100) :
    ∃ t, exec (.place 1 mask l) s = .next t ∧ t.err = .ok := by
  refine ⟨_, execPlace_eq 1 mask l s, ?_⟩
  rw [if_neg (by decide), if_neg (by omega)]
  rfl

/-- An idle machine with a command word pending, the engine's turn next. -/
def waiting (w : Word) : State := { State.reset with pending := some w }

/-- An idle machine with the tracker filled and one DARK cell, a legal state that is not the reset state. -/
def used : State := { lastCellDark with bestScore := 2088, bestValid := true, bestMaskId := 3, ovr := true }

theorem used_is_legal : Inv used where
  memWf := by decide
  memLegal := by decide
  trackerEmpty := by decide
  bestBound := by decide
  totalExact := by decide
  penaltyBounds := by decide
  darkBound := by decide
  placeBound := by decide
  consumedBound := by decide
  hiddenIdle := by decide
  clearAlone := by decide

theorem witness_DecodeAfterEncode : WellFormed (.place 7 15 255) ∧ WellFormed (.rsenc 0 31) ∧ WellFormed .nop := by decide

theorem witness_EncodeAfterDecode : decode 0x20070013 = .ok (.rsenc 19 7) := by decide

theorem witness_IllegalWordsCompleteWithOpcodeError :
    legalWord 0x30004764 ∧ ¬ legalWord 0x40000001 ∧ ¬ legalWord 0xF0000000 ∧
    nextEvent (waiting 0x40000001) = .engine ∧ (waiting 0x40000001).clearing = false ∧
    (waiting 0x40000001).pending = some 0x40000001 := by
  unfold legalWord
  decide

theorem witness_StepRunsTheDecodedCommand :
    nextEvent (waiting 0x10000000) = .engine ∧ (waiting 0x10000000).clearing = false ∧
    (waiting 0x10000000).pending = some 0x10000000 ∧ decode 0x10000000 = .ok .clrg := by decide

theorem witness_StepPerformsTheNextMove :
    { used with events := [.read 0] }.events = .read 0 :: [] ∧ { used with events := [.write 4 0] }.events = .write 4 0 :: [] ∧
    { used with events := [.reset] }.events = .reset :: [] ∧ { used with events := [.resetStart] }.events = .resetStart :: [] ∧
    { used with events := [.engine] }.events = .engine :: [] ∧ used.events = [] := by decide

/-- A legal state in the middle of the reset clear, with a cell not yet cleared and an overrun already seen. -/
def clearingUsed : State := { used with clearing := true }

theorem clearingUsed_is_legal : Inv clearingUsed := { used_is_legal with clearAlone := by decide }

theorem witness_EngineTurnWithoutCommand :
    nextEvent used = .engine ∧ busy used = false ∧
    nextEvent clearingUsed = .engine ∧ clearingUsed.clearing = true ∧ clearingUsed.pending = none ∧ Inv clearingUsed ∧
    (∀ r c, r < 33 → c < 33 → 0x2104 ≠ cellAddr r c) := by
  refine ⟨by decide, by decide, by decide, by decide, by decide, clearingUsed_is_legal, fun r c hr hc h => ?_⟩
  rw [cellAddr_eq] at h
  omega

theorem witness_NopClearsErrAndNothingElse :
    (0x00000001 : Word).extractLsb 31 28 = 0x0 ∧ (0x00000001 : Word).extractLsb 27 0 ≠ 0 := by decide

theorem witness_ClrgClearsEveryCell :
    (0x18000000 : Word).extractLsb 31 28 = 0x1 ∧ (0x18000000 : Word).extractLsb 27 0 ≠ 0 ∧ Inv used ∧
    (∀ r c, r < 33 → c < 33 → 0x2104 ≠ cellAddr r c) := by
  refine ⟨by decide, by decide, used_is_legal, fun r c hr hc h => ?_⟩
  rw [cellAddr_eq] at h
  omega

theorem witness_ClrbestEmptiesTheTracker :
    (0x50000100 : Word).extractLsb 31 28 = 0x5 ∧ (0x50000100 : Word).extractLsb 27 0 ≠ 0 := by decide

theorem witness_PendingCommandRunsOnItsAcceptanceState :
    let accesses : List Event := [.read 0x008, .write 0x004 0, .read 0x1000]
    busy State.reset = false ∧ wordAddr 0x007 = 0x004 ∧ accesses.all isAccess = true ∧
    { State.reset with events := .write 0x007 0x10000000 :: accesses }.events = .write 0x007 0x10000000 :: accesses := by
  decide

theorem witness_CommandReportsFirstFailingCheck :
    nextEvent (waiting 0x3000501A) = .engine ∧ (waiting 0x3000501A).clearing = false ∧
    (waiting 0x3000501A).pending = some 0x3000501A := by decide

theorem witness_FailingCommandChangesOnlyStatus :
    ∃ t, executeWord 0x3000501A State.reset = .next t ∧ t.err ≠ .ok :=
  ⟨complete .version State.reset, by rfl, by decide⟩

theorem witness_CommandsTouchOnlyTheirTable :
    (∃ t, exec (.rsenc 80 20) State.reset = .next t) ∧ (∃ t, exec (.place 1 0 26) State.reset = .next t) ∧
    (∃ t, exec (.score 1 0) State.reset = .next t) ∧ (∃ t, exec .clrbest State.reset = .next t) ∧
    (∀ pos ∈ walk (sideLength 1), cellAt State.reset.mem pos.1 pos.2 = .unassigned → 0x0FFF ≠ cellAddr pos.1 pos.2) ∧
    (∃ t, exec .clrg used = .next t) ∧ Inv used ∧ (∀ r c, r < 33 → c < 33 → 0x2104 ≠ cellAddr r c) := by
  refine ⟨⟨_, execRsenc_eq ..⟩, ⟨_, execPlace_eq ..⟩, ⟨_, execScore_eq ..⟩, ⟨_, rfl⟩, fun pos _ _ h => ?_, ⟨_, rfl⟩,
    used_is_legal, fun r c hr hc h => ?_⟩
  · rw [cellAddr_eq] at h
    omega
  · rw [cellAddr_eq] at h
    omega

theorem witness_RsencStoresTheEccCodewords :
    (20 ∈ [7, 10, 15, 20] ∧ 80 + 20 ≤ 100) ∧ (7 ∈ [7, 10, 15, 20] ∧ 0 + 7 ≤ 100) := by decide

theorem witness_EncodedCodewordsVanishAtTheRoots : 15 ∈ [7, 10, 15, 20] ∧ 85 + 15 ≤ 100 ∧ 14 < 15 := by decide

theorem witness_DivisionCircuitComputesThePolynomialRemainder : 10 ∈ [7, 10, 15, 20] := by decide

theorem witness_EccCornerCases : 7 ∈ [7, 10, 15, 20] ∧ 20 ∈ [7, 10, 15, 20] := by decide

theorem witness_GeneratorRomIsTheProductOfRoots : 15 ∈ [7, 10, 15, 20] := by decide

theorem witness_MaskPictures : 8 ≤ 8 ∧ 8 ≤ 15 := by decide

theorem witness_EccIsLinear : 10 ∈ [7, 10, 15, 20] ∧ [0x80#8, 0x01#8].length = [0xFF#8, 0x00#8].length := by decide

theorem witness_PrintedTablesArePowersOfAlpha : 253 < 254 ∧ 254 < 255 ∧ (0xFF : Byte) ≠ 0 := by decide

theorem witness_FieldLaws : (0x02 : Byte) ≠ 0 := by decide

theorem witness_StreamIsMostSignificantBitFirst : 100 ≤ 100 := by decide

theorem witness_WalkVisitsEachFreeColumnCellOnce : 1 ∈ [1, 2, 3, 4] ∧ 4 ∈ [1, 2, 3, 4] := by decide

/-- The order clause of the same statement, at the first and the last strip of version 4 and the first and the last row. -/
theorem witness_WalkVisitsEachFreeColumnCellOnce_order :
    (1 ≤ 1 ∧ 1 ≤ (4 * 4 + 17 - 1) / 2 ∧ 0 < 4 * 4 + 17) ∧ (1 ≤ 16 ∧ 16 ≤ (4 * 4 + 17 - 1) / 2 ∧ 32 < 4 * 4 + 17) := by decide

theorem witness_PlacePaintsTheDataModulesInWalkOrder :
    4 ∈ [1, 2, 3, 4] ∧ 100 ≤ 100 ∧ 1055 < (walk (sideLength 4)).length := by
  rw [length_walk]
  decide

theorem witness_PlaceCountersSumToTheDataModules : ∃ t, exec (.place 1 0 26) used = .next t ∧ t.err = .ok :=
  place_completes 0 26 used (by decide)

theorem witness_PlaceKeepsStructuralModules :
    (∃ t, exec (.place 1 0 26) used = .next t ∧ t.err = .ok) ∧ cellAt used.mem 32 32 ≠ .unassigned :=
  ⟨place_completes 0 26 used (by decide), by decide⟩

theorem witness_PlaceNeverReachesColumnSix :
    1 ∈ [1, 2, 3, 4] ∧ (∃ t, exec (.place 1 0 26) used = .next t ∧ t.err = .ok) ∧ cellAt used.mem 20 6 = .unassigned :=
  ⟨by decide, place_completes 0 26 used (by decide), by decide⟩

theorem witness_UnmaskedPlaceShowsTheStream :
    (∃ t, exec (.place 1 8 1) used = .next t ∧ t.err = .ok) ∧ (∃ t, exec (.place 1 15 0) used = .next t ∧ t.err = .ok) ∧
    0 < (walk (sideLength 1)).length ∧ cellAt used.mem 20 20 = .unassigned ∧ freeModules used.mem ((walk 21).take 0) < 8 * 1 ∧
    8 * 0 ≤ freeModules used.mem ((walk 21).take 0) := by
  refine ⟨place_completes 8 1 used (by decide), place_completes 15 0 used (by decide), ?_, by decide, by decide, by decide⟩
  rw [length_walk]
  decide

theorem witness_SecondPlaceChangesNoCell : (∃ t, exec (.place 1 0 26) used = .next t ∧ t.err = .ok) ∧ 100 ≤ 100 :=
  ⟨place_completes 0 26 used (by decide), by decide⟩

theorem lightGrid_is_finished : ∀ r c, r < sideLength 1 → c < sideLength 1 → cellAt lightGrid r c ≠ .unassigned := by
  have h : cornerFinished (corner lightGrid (sideLength 1)) = true := by decide +kernel
  exact fun r c hr hc => (cornerFinished_iff lightGrid (sideLength 1)).mp h r hr c hc

theorem witness_ScoreWritesResultsAndTracker :
    1 ∈ [1, 2, 3, 4] ∧ (∀ r c, r < sideLength 1 → c < sideLength 1 → cellAt lightGrid r c ≠ .unassigned) ∧
    7 ≤ 7 ∧ State.reset.bestValid = false ∧ ¬ 8 ≤ 7 :=
  ⟨by decide, lightGrid_is_finished, by decide, by decide, by decide⟩

theorem witness_ScoreRefusesUnfinishedGrid :
    4 ∈ [1, 2, 3, 4] ∧ 32 < sideLength 4 ∧ cellAt State.reset.mem 32 32 = .unassigned := by decide

theorem witness_BalanceProcedureEqualsClosedForm : 0 < 441 ∧ 441 ≤ 441 ∧ 0 ≤ 441 := by decide

theorem witness_PenaltiesStayInBounds :
    let p := List.replicate 33 (List.replicate 33 true)
    4 ∈ [1, 2, 3, 4] ∧ p.length = sideLength 4 ∧ ∀ row ∈ p, row.length = sideLength 4 := by decide

theorem witness_TrackerHoldsLowestMaskOfLeastTotal :
    (∃ x ∈ ([(9, 10), (7, 800)] : List (Nat × Word)), x.1 ≤ 7) ∧ (∀ x ∈ ([(8, 10), (15, 0)] : List (Nat × Word)), 7 < x.1) := by
  decide

theorem witness_ResultsDependOnlyOnTheirInputs :
    let s := State.reset
    let s' := { lastCellDark with err := .range, total := 7 }
    (∀ r c, r < sideLength 1 → c < sideLength 1 → cellAt s.mem r c = cellAt s'.mem r c) ∧
    s.bestScore = s'.bestScore ∧ s.bestValid = s'.bestValid ∧ s.bestMaskId = s'.bestMaskId ∧
    (∀ i, i < 26 → bufferGet s.cw i = bufferGet s'.cw i) ∧
    (∃ t, exec (.score 1 0) s = .next t) ∧ (∃ t, exec (.score 1 0) s' = .next t) ∧
    (∃ t, exec (.place 1 0 26) s = .next t) ∧ (∃ t, exec (.place 1 0 26) s' = .next t) := by
  refine ⟨fun r c hr hc => ?_, rfl, rfl, rfl, fun _ _ => rfl, ⟨_, execScore_eq ..⟩, ⟨_, execScore_eq ..⟩,
    ⟨_, execPlace_eq ..⟩, ⟨_, execPlace_eq ..⟩⟩
  have h1 : r < 21 := hr
  have h2 : c < 21 := hc
  refine cellAt_congr (Eq.symm (memory_read_of_not_mem _ _ fun x hx => ?_))
  simp only [lastCellDark, List.mem_singleton] at hx
  rw [hx]
  simp only [cellAddr_eq]
  omega

theorem witness_BusAddressMap :
    (0x1000 : Addr).toNat / 4 = (0x1003 : Addr).toNat / 4 ∧ 99 < 100 ∧ 32 < 33 := by decide

theorem witness_UnmappedWordsReadZero :
    (0x034 ≤ (0x034 : Addr).toNat ∧ (0x034 : Addr).toNat ≤ 0x3FF) ∧ (0x3FF : Addr).toNat ≤ 0x3FF ∧
    (0x590 ≤ (0x590 : Addr).toNat ∧ (0xFFF : Addr).toNat ≤ 0xFFF) ∧ 0x2104 ≤ (0x2104 : Addr).toNat ∧
    0x2104 ≤ (0x3FFF : Addr).toNat ∧ busy used = false := by decide

theorem witness_GridWriteThenRead : Inv used ∧ busy used = false ∧ 32 < 33 :=
  ⟨used_is_legal, by decide, by decide⟩

theorem witness_CodewordWriteThenRead : busy used = false ∧ 99 < 100 := by decide

theorem witness_RegisterWrites :
    busy used = false ∧ wordAddr 0x004 = 0x004 ∧ wordAddr 0x00B = 0x008 ∧ (wordAddr 0x000 ≤ 0x030 ∧ wordAddr 0x000 ≠ 0x004) ∧
    (wordAddr 0x033 ≤ 0x030 ∧ wordAddr 0x033 ≠ 0x008) := by decide

theorem witness_RegisterReads : busy used = false := by decide

theorem witness_StatusWordLayout :
    (waiting 0).pending ≠ none ∧ { State.reset with clearing := true }.clearing = true := by decide

theorem witness_BusyWriteIsDropped :
    busy (waiting 0) = true ∧ { waiting 0 with events := [.write 0x1000 3] }.events = .write 0x1000 3 :: [] := by decide

theorem witness_BusyReads :
    busy (waiting 0) = true ∧ wordAddr 0x003 = 0x000 ∧ wordAddr 0x004 = 0x004 ∧ wordAddr 0x008 = 0x008 ∧
    locate 0x034 = .unmapped ∧ locate 0x3FFC = .unmapped ∧ (0x00C ≤ wordAddr 0x00C ∧ locate 0x00C ≠ .unmapped) ∧
    (0x00C ≤ wordAddr 0x2100 ∧ locate 0x2100 ≠ .unmapped) := by decide

theorem witness_SafeMovesNeitherOverrunNorDraw :
    let s := { used with events := [.write 0x400 7] }
    SafeNext s = true ∧ nextEvent s ≠ .reset ∧ nextEvent s ≠ .resetStart ∧ ∃ t, step s = .next t :=
  ⟨by decide, by decide, by decide, ⟨_, rfl⟩⟩

theorem witness_ResetLeavesTheListedState :
    { waiting 0x10000000 with events := [.reset, .read 0] }.events = .reset :: [.read 0] := by decide

theorem witness_ResetClearEndsAsTheAtomicReset :
    { used with events := [.resetStart, .engine, .read 0] }.events = .resetStart :: .engine :: [.read 0] ∧
    { used with events := .resetStart :: asmBoot 2 }.events =
      [.resetStart, .read 0x008, .read 0x008, .engine, .read 0x008, .read 0x000] := by decide

theorem witness_StepKeepsTheInvariant : Inv used ∧ ∃ t, step used = .next t := ⟨used_is_legal, ⟨_, rfl⟩⟩

end Sys2Proof.Tests
end

section
/-! One step by the shape of the list of moves (spec 00_scope.md R6, 20_memory.md R72). -/

namespace Sys2Proof.Machine

theorem popEvent_of_events_cons {s : State} {e : Event} {rest : List Event} (h : s.events = e :: rest) :
    popEvent s = { s with events := rest } := by
  rw [popEvent, h, List.tail_cons]

theorem popEvent_of_events_nil {s : State} (h : s.events = []) : popEvent s = s := by
  rw [popEvent, h, List.tail_nil, ← h]

theorem nextEvent_of_events_cons {s : State} {e : Event} {rest : List Event} (h : s.events = e :: rest) :
    nextEvent s = e := by
  rw [nextEvent, h, List.headD_cons]

theorem nextEvent_of_events_nil {s : State} (h : s.events = []) : nextEvent s = .engine := by
  rw [nextEvent, h, List.headD_nil]

/-- A listed move is performed on the state that no longer lists it. -/
theorem step_of_events_cons {s : State} {e : Event} {rest : List Event} (h : s.events = e :: rest) :
    step s = move e { s with events := rest } := by
  rw [step, nextEvent_of_events_cons h, popEvent_of_events_cons h]

theorem step_of_events_nil {s : State} (h : s.events = []) : step s = engineTurn s := by
  rw [step, nextEvent_of_events_nil h, popEvent_of_events_nil h, move]

/-- Settles O6: by the head of the list; each clause is the arm of `move` that `step_of_events_cons` selects. -/
theorem stepPerformsTheNextMove : Obligations.StepPerformsTheNextMove :=
  fun _ _ => ⟨fun _ => step_of_events_cons, fun _ _ => step_of_events_cons, step_of_events_cons, step_of_events_cons,
    step_of_events_cons, step_of_events_nil⟩

end Sys2Proof.Machine
end

section
/-! Bounds on the four penalty rules (spec 43_penalty_scorer.md R206). -/

namespace Sys2Proof.Machine

/-! ### Rule 1 -/

/-- What the modules already in a run add to the bound on the points still to come (`runPenaltyFrom_le`): n modules more earn at most
n + credit - 2. The 3 points of a fifth module pay for the third, fourth and fifth; from then on each module earns its own point. -/
def runCredit (run : Nat) : Nat := if run < 5 then run else 2

theorem runPenaltyFrom_le (prev : Bool) (run p : Nat) (xs : List Bool) :
    runPenaltyFrom prev run p xs ≤ p + (xs.length + runCredit run - 2) := by
  induction xs generalizing prev run p with
  | nil => simp [runPenaltyFrom]
  | cons x xs ih =>
    rw [runPenaltyFrom]
    split
    · have hgain : (if run + 1 = 5 then p + 3 else if 5 < run + 1 then p + 1 else p) + (xs.length + runCredit (run + 1) - 2) ≤
          p + ((x :: xs).length + runCredit run - 2) := by
        simp only [runCredit, List.length_cons]
        split_ifs <;> omega
      exact (ih ..).trans hgain
    · refine (ih ..).trans ?_
      simp only [runCredit, List.length_cons]
      split_ifs <;> omega

/-- A line of n modules earns at most n - 2 points by rule 1. -/
theorem runPenalty_le (line : List Bool) : runPenalty line ≤ line.length - 2 := by
  cases line with
  | nil => simp [runPenalty]
  | cons x xs => simpa [runPenalty, runCredit] using runPenaltyFrom_le x 1 0 xs

/-! ### Rule 3 -/

/-- A window matches at most one of the two patterns, and only the positions with 11 modules left start one. -/
theorem occurrences_both_le (ys : List Bool) :
    occurrences finderForward ys + occurrences finderReverse ys ≤ ys.length - 10 := by
  induction ys with
  | nil => simp [occurrences]
  | cons y ys ih =>
    have hwindow : ∀ pattern : List Bool, pattern.length = 11 → (y :: ys).take pattern.length = pattern → 10 ≤ ys.length := by
      intro pattern hlen h
      have := congrArg List.length h
      rw [hlen, List.length_take, List.length_cons] at this
      omega
    have hone : ¬ ((y :: ys).take finderForward.length = finderForward ∧ (y :: ys).take finderReverse.length = finderReverse) :=
      fun ⟨hf, hr⟩ => absurd (hf.symm.trans hr) (by decide)
    have hforward := hwindow finderForward rfl
    have hreverse := hwindow finderReverse rfl
    simp only [occurrences, List.length_cons]
    split_ifs with hf hr hr
    · exact absurd ⟨hf, hr⟩ hone
    · have := hforward hf; omega
    · have := hreverse hr; omega
    · omega

/-- A line of n modules has at most n - 8 matches, the two virtual modules included. -/
theorem finderMatches_le (line : List Bool) : finderMatches line ≤ line.length - 8 := by
  have h := occurrences_both_le (padLine line)
  simp only [padLine, List.length_append, List.length_singleton] at h
  simp only [finderMatches, padLine]
  omega

/-! ### The lines of a square picture -/

theorem length_of_mem_gridLines {p : List (List Bool)} {side : Nat} (hp : p.length = side) (hrow : ∀ row ∈ p, row.length = side) :
    ∀ line ∈ gridLines p side, line.length = side := by
  intro line hline
  rcases List.mem_append.mp hline with hmem | hmem
  · exact hrow line hmem
  · obtain ⟨c, -, rfl⟩ := List.mem_map.mp hmem
    rw [columnLine, List.length_map, hp]

theorem length_gridLines (p : List (List Bool)) (side : Nat) : (gridLines p side).length = p.length + side := by
  simp [gridLines]

section
variable {p : List (List Bool)} {side : Nat} (hp : p.length = side) (hrow : ∀ row ∈ p, row.length = side)
include hp hrow

/-- Points of at most `most` for each line of a square picture. -/
theorem sum_gridLines_le (points : List Bool → Nat) (most : Nat) (h : ∀ line : List Bool, line.length = side → points line ≤ most) :
    ((gridLines p side).map points).sum ≤ 2 * side * most := by
  have hsum := List.sum_le_card_nsmul ((gridLines p side).map points) most fun n hn => by
    obtain ⟨line, hline, rfl⟩ := List.mem_map.mp hn
    exact h line (length_of_mem_gridLines hp hrow line hline)
  rwa [List.length_map, length_gridLines, hp, smul_eq_mul, ← two_mul] at hsum

theorem penaltyRuns_le : penaltyRuns p side ≤ 2 * side * (side - 2) :=
  sum_gridLines_le hp hrow runPenalty (side - 2) fun line hl => hl ▸ runPenalty_le line

theorem penaltyFinder_le : penaltyFinder p side ≤ 40 * (2 * side * (side - 8)) :=
  Nat.mul_le_mul_left 40 (sum_gridLines_le hp hrow finderMatches (side - 8) fun line hl => hl ▸ finderMatches_le line)

theorem darkCells_le : darkCells p ≤ side * side := by
  have h := List.sum_le_card_nsmul (p.map fun row => row.count true) side fun n hn => by
    obtain ⟨row, hmem, rfl⟩ := List.mem_map.mp hn
    exact (hrow row hmem) ▸ List.count_le_length
  rwa [List.length_map, hp, smul_eq_mul] at h

end

/-! ### Rules 2 and 4 -/

theorem penaltyBlocks_le (p : List (List Bool)) (side : Nat) : penaltyBlocks p side ≤ 3 * ((side - 1) * (side - 1)) := by
  have h := List.sum_le_card_nsmul ((List.range (side - 1)).map fun r => (List.range (side - 1)).countP (blockAt p r)) (side - 1)
    fun n hn => by
      obtain ⟨r, -, rfl⟩ := List.mem_map.mp hn
      exact List.countP_le_length.trans_eq List.length_range
  rw [List.length_map, List.length_range, smul_eq_mul] at h
  exact Nat.mul_le_mul_left 3 h

/-- At most half a scale of 20 steps away from the middle, 10 points a step. -/
theorem balancePenalty_le {d n : Nat} (h : d ≤ n) : balancePenalty d n ≤ 100 := by
  have hk : 20 * d / n ≤ 20 := Nat.div_le_of_le_mul (by omega)
  simp only [balancePenalty]
  generalize 20 * d / n = k at hk ⊢
  split <;> omega

/-! ### The numbers of R206 -/

theorem sideLength_bounds {ver : Nat} (h : ver ∈ [1, 2, 3, 4]) : 21 ≤ sideLength ver ∧ sideLength ver ≤ 33 := by
  revert ver; decide

/-- The bounds of R206 on what SCORE computes from a square picture of a legal side. -/
theorem penalties_le {p : List (List Bool)} {ver : Nat} (hver : ver ∈ [1, 2, 3, 4]) (hp : p.length = sideLength ver)
    (hrow : ∀ row ∈ p, row.length = sideLength ver) :
    penaltyRuns p (sideLength ver) ≤ 2046 ∧ penaltyBlocks p (sideLength ver) ≤ 3072 ∧ penaltyFinder p (sideLength ver) ≤ 66000 ∧
      penaltyBalance p (sideLength ver) ≤ 100 ∧ darkCells p ≤ 1089 := by
  have hside := (sideLength_bounds hver).2
  have hdark := darkCells_le hp hrow
  refine ⟨(penaltyRuns_le hp hrow).trans ?_, (penaltyBlocks_le p _).trans ?_, (penaltyFinder_le hp hrow).trans ?_,
    balancePenalty_le hdark, hdark.trans ?_⟩
  · exact Nat.mul_le_mul (show 2 * sideLength ver ≤ 66 by omega) (show sideLength ver - 2 ≤ 31 by omega)
  · exact Nat.mul_le_mul_left 3 (Nat.mul_le_mul (show _ ≤ 32 by omega) (show _ ≤ 32 by omega))
  · exact Nat.mul_le_mul_left 40 (Nat.mul_le_mul (show 2 * sideLength ver ≤ 66 by omega) (show sideLength ver - 8 ≤ 25 by omega))
  · exact Nat.mul_le_mul hside hside

theorem length_darkRows_corner (m : Memory) (side : Nat) : (darkRows (corner m side)).length = side := by
  simp [darkRows, corner]

theorem length_of_mem_darkRows_corner {m : Memory} {side : Nat} : ∀ row ∈ darkRows (corner m side), row.length = side := by
  simp [darkRows, corner]

end Sys2Proof.Machine
end

section
/-! The walk over any side, the cells it paints, and the counters of PLACE (spec 42_bit_placer.md R174 to R178). -/

namespace Sys2Proof.Machine

/-! ### The walk has no repeats -/

theorem mem_stripNumbers (side t : Nat) : t ∈ stripNumbers side ↔ 1 ≤ t ∧ t ≤ (side - 1) / 2 := by
  simp only [stripNumbers, List.mem_map, List.mem_range]
  constructor
  · rintro ⟨n, hn, rfl⟩
    omega
  · intro h
    exact ⟨t - 1, by omega, by omega⟩

theorem stripRightColumn_pos {side t : Nat} (h : t ∈ stripNumbers side) : 0 < stripRightColumn side t := by
  rw [mem_stripNumbers] at h
  unfold stripRightColumn
  split <;> omega

theorem stripRightColumn_lt {side t : Nat} (h : t ∈ stripNumbers side) : stripRightColumn side t < side := by
  rw [mem_stripNumbers] at h
  unfold stripRightColumn
  split <;> omega

/-- Each strip lies to the left of the strips before it. -/
theorem stripRightColumn_succ_lt {side t u : Nat} (ht : t ∈ stripNumbers side) (hu : u ∈ stripNumbers side) (h : t < u) :
    stripRightColumn side u + 1 < stripRightColumn side t := by
  rw [mem_stripNumbers] at ht hu
  unfold stripRightColumn
  split_ifs <;> omega

theorem stripNumbers_rising (side : Nat) : (stripNumbers side).Pairwise (· < ·) :=
  List.pairwise_lt_range.map _ fun _ _ => Nat.succ_lt_succ

theorem nodup_walk_side (side : Nat) : (walk side).Nodup :=
  nodup_walk side (fun _ => stripRightColumn_pos)
    ((stripNumbers_rising side).imp_of_mem fun ht hu => stripRightColumn_succ_lt ht hu)

theorem lt_side_of_mem_walk {side : Nat} {pos : Nat × Nat} (h : pos ∈ walk side) : pos.1 < side ∧ pos.2 < side := by
  obtain ⟨hrow, t, ht, hcolumn⟩ := (mem_walk side pos.1 pos.2).mp h
  have := stripRightColumn_lt ht
  exact ⟨hrow, by omega⟩

/-- In the 33 × 33 RAM the positions of a walk have addresses of their own. -/
theorem walk_addresses_differ {side : Nat} (h : side ≤ 33) :
    (walk side).Pairwise fun x y => positionAddr x ≠ positionAddr y := by
  refine (nodup_walk_side side).imp_of_mem fun {x y} hx hy hne haddr => hne ?_
  have hx := (lt_side_of_mem_walk hx).2
  have hy := (lt_side_of_mem_walk hy).2
  obtain ⟨hrow, hcolumn⟩ := cellAddr_inj (by omega) (by omega) haddr
  exact Prod.ext hrow hcolumn

theorem length_walk_le {side : Nat} (h : side ≤ 33) : (walk side).length ≤ 1056 := by
  rw [length_walk]
  exact Nat.mul_le_mul (show (side - 1) / 2 ≤ 16 by omega) (show 2 * side ≤ 66 by omega)

/-! ### The counters -/

theorem placeAll_counted {entries : Nat} (cw : Vector Byte entries) (mask l : Nat) (m : Memory) {side : Nat} (h : side ≤ 33) :
    Counted l (placeAll Config.hw cw mask l m side) (freeModules m (walk side)) := by
  have hstart : Counted l ⟨m, 0, 0⟩ 0 := by simp [Counted]
  obtain ⟨hcounted, -⟩ := placeFold_spec cw mask l (walk side) (walk_addresses_differ h) ⟨m, 0, 0⟩ 0 hstart
  rwa [Nat.zero_add] at hcounted

theorem freeModules_walk_le (m : Memory) {side : Nat} (h : side ≤ 33) : freeModules m (walk side) ≤ 1056 :=
  List.countP_le_length.trans (length_walk_le h)

/-- A PLACE ends with ERR = 0 only by running the walk, on legal operands. -/
theorem execPlace_ok {ver mask l : Nat} {s t : State} (h : execPlace ver mask l s = .next t) (herr : t.err = .ok) :
    ver ∈ [1, 2, 3, 4] ∧ l ≤ 100 ∧
      t = complete .ok (
        let p := placeAll Config.hw s.cw mask l s.mem (sideLength ver)
        recordPlace p.mem p.used p.defaulted s) := by
  rw [execPlace_eq] at h
  obtain rfl := Host.Outcome.next.inj h
  split_ifs at herr ⊢ with hver hl
  · cases herr
  · exact ⟨hver, by omega, rfl⟩
  · cases herr

/-- Settles O28: the fold counts each UNASSIGNED position once, and 1056 of them at most, so that 32 bits hold both counters. -/
theorem placeCountersSumToTheDataModules : Obligations.PlaceCountersSumToTheDataModules := by
  intro ver mask l s t h herr
  obtain ⟨hver, -, rfl⟩ := execPlace_ok h herr
  have hside := (sideLength_bounds hver).2
  obtain ⟨hused, hdefaulted⟩ := placeAll_counted s.cw mask l s.mem hside
  have hfree := freeModules_walk_le s.mem hside
  simp only [complete_placeConsumed, complete_placeDefaulted, recordPlace_placeConsumed, recordPlace_placeDefaulted,
    BitVec.toNat_ofNat, hused, hdefaulted]
  omega

end Sys2Proof.Machine
end

section
/-! What each named update keeps of the invariant, and the invariant over every step. -/

namespace Sys2Proof.Machine

/-! ### The cells of a legal memory -/

theorem legalCell_colour (r c : Nat) (x : Colour) (hr : r < 33) (hc : c < 33) (hx : x ≠ .unassigned) :
    legalCell (cellAddr r c, colourByte x) = true := by
  have hbyte : (colourByte x == colourByte .light || colourByte x == colourByte .dark) = true := by
    cases x
    · exact absurd rfl hx
    · rfl
    · rfl
  have haddr := cellAddr_eq r c
  simp only [legalCell, hbyte, Bool.and_true, Bool.and_eq_true, decide_eq_true_eq]
  omega

theorem memLegal_setCell {m : Memory} (h : ∀ y ∈ m, legalCell y = true) (r c : Nat) (x : Colour) (hr : r < 33) (hc : c < 33) :
    ∀ y ∈ setCell m r c x, legalCell y = true := by
  intro y hy
  rcases memory_mem_write m _ _ hy with ⟨rfl, hlisted⟩ | hold
  · refine legalCell_colour r c x hr hc ?_
    rintro rfl
    exact hlisted rfl
  · exact h y hold

theorem memLegal_placeCell {entries : Nat} (cfg : Config) (cw : Vector Byte entries) (mask l : Nat) (p : Placing) (pos : Nat × Nat)
    (h : ∀ y ∈ p.mem, legalCell y = true) (hr : pos.1 < 33) (hc : pos.2 < 33) :
    ∀ y ∈ (placeCell cfg cw mask l p pos).mem, legalCell y = true := by
  unfold placeCell
  split
  · exact memLegal_setCell h _ _ _ hr hc
  · exact h
  · exact h

/-- The walk paints cells of the RAM only. -/
theorem memLegal_placeAll {entries : Nat} (cfg : Config) (cw : Vector Byte entries) (mask l : Nat) (m : Memory) {side : Nat}
    (hside : side ≤ 33) (h : ∀ y ∈ m, legalCell y = true) :
    ∀ y ∈ (placeAll cfg cw mask l m side).mem, legalCell y = true := by
  refine List.foldlRecOn (walk side) (placeCell cfg cw mask l) (motive := fun p => ∀ y ∈ p.mem, legalCell y = true)
    (b := ⟨m, 0, 0⟩) h ?_
  intro p hp pos hpos
  obtain ⟨hrow, hcolumn⟩ := lt_side_of_mem_walk hpos
  exact memLegal_placeCell cfg cw mask l p pos hp (by omega) (by omega)

/-! ### The named updates -/

theorem inv_setCell {s : State} (h : Inv s) (r c : Nat) (x : Colour) (hr : r < 33) (hc : c < 33) :
    Inv { s with mem := setCell s.mem r c x } :=
  { h with
    memWf := memory_wf_setCell _ _ _ _ h.memWf
    memLegal := memLegal_setCell h.memLegal r c x hr hc }

theorem inv_complete {s : State} (h : Inv s) (code : ErrCode) : Inv (complete code s) :=
  { h with
    hiddenIdle := ⟨rfl, rfl⟩
    clearAlone := fun _ => rfl }

theorem inv_clearGrid {s : State} (h : Inv s) : Inv (clearGrid s) :=
  { h with
    memWf := memory_wf_nil
    memLegal := by simp }

theorem inv_clearBest {s : State} (h : Inv s) : Inv (clearBest s) :=
  { h with
    trackerEmpty := fun _ => ⟨rfl, rfl⟩
    bestBound := Nat.zero_le _ }

theorem inv_recordEcc {s : State} (h : Inv s) (k : Nat) (ecc : List Byte) : Inv (recordEcc k ecc s) := { h with }

/-- Counters of at most 1056 bits, 800 of them from the stream, are exact in 32 bits. -/
theorem inv_recordPlace {s : State} (h : Inv s) {m : Memory} {consumed defaulted : Nat} (hwf : Memory.wf m)
    (hlegal : ∀ y ∈ m, legalCell y = true) (hsum : consumed + defaulted ≤ 1056) (hconsumed : consumed ≤ 800) :
    Inv (recordPlace m consumed defaulted s) :=
  { h with
    memWf := hwf
    memLegal := hlegal
    placeBound := by
      simp only [recordPlace_placeConsumed, recordPlace_placeDefaulted, BitVec.toNat_ofNat]
      omega
    consumedBound := by
      simp only [recordPlace_placeConsumed, BitVec.toNat_ofNat]
      omega }

theorem inv_recordScore {s : State} (h : Inv s) {p1 p2 p3 p4 dark : Nat} (h1 : p1 ≤ 2046) (h2 : p2 ≤ 3072) (h3 : p3 ≤ 66000)
    (h4 : p4 ≤ 100) (hdark : dark ≤ 1089) : Inv (recordScore p1 p2 p3 p4 dark s) :=
  { h with
    totalExact := by
      simp only [recordScore_total, recordScore_p1Run, recordScore_p2Block, recordScore_p3Finder, recordScore_p4Balance,
        BitVec.toNat_ofNat]
      omega
    penaltyBounds := by
      simp only [recordScore_p1Run, recordScore_p2Block, recordScore_p3Finder, recordScore_p4Balance, BitVec.toNat_ofNat]
      omega
    darkBound := by
      simp only [recordScore_darkCount, BitVec.toNat_ofNat]
      omega }

theorem inv_updateBest {s : State} (h : Inv s) (mask : Nat) {score : Word} (hscore : score.toNat ≤ 71218) :
    Inv (updateBest mask score s) := by
  unfold updateBest
  split
  · exact { h with
      trackerEmpty := fun hvalid => Bool.noConfusion hvalid
      bestBound := hscore }
  · exact h

/-! ### The commands -/

/-- The four bounds add up to the 71218 of R206, which the tracker may take. -/
theorem inv_scorePicture {s : State} (h : Inv s) {ver : Nat} (hver : ver ∈ [1, 2, 3, 4]) (m : Memory) (mask : Nat) :
    Inv (scorePicture (darkRows (corner m (sideLength ver))) (sideLength ver) mask s) := by
  obtain ⟨h1, h2, h3, h4, hdark⟩ := penalties_le hver (length_darkRows_corner m _) length_of_mem_darkRows_corner
  refine inv_updateBest (inv_recordScore h h1 h2 h3 h4 hdark) mask ?_
  rw [BitVec.toNat_ofNat, penaltyTotal]
  omega

theorem inv_execRsenc {s : State} (h : Inv s) (k e : Nat) : ∃ t, execRsenc k e s = .next t ∧ Inv t := by
  refine ⟨_, execRsenc_eq k e s, ?_⟩
  split_ifs
  · exact inv_complete h _
  · exact inv_complete (inv_recordEcc h k _) _
  · exact inv_complete h _

theorem inv_execPlace {s : State} (h : Inv s) (ver mask l : Nat) : ∃ t, execPlace ver mask l s = .next t ∧ Inv t := by
  refine ⟨_, execPlace_eq ver mask l s, ?_⟩
  split_ifs with hver hl
  · exact inv_complete h _
  · have hside := (sideLength_bounds hver).2
    obtain ⟨hused, hdefaulted⟩ := placeAll_counted s.cw mask l s.mem hside
    have hfree := freeModules_walk_le s.mem hside
    exact inv_complete (inv_recordPlace h (placeAll_memory_wf _ _ _ _ _ _ h.memWf) (memLegal_placeAll _ _ _ _ _ hside h.memLegal)
      (by omega) (by omega)) _
  · exact inv_complete h _

theorem inv_execScore {s : State} (h : Inv s) (ver mask : Nat) : ∃ t, execScore ver mask s = .next t ∧ Inv t := by
  refine ⟨_, execScore_eq ver mask s, ?_⟩
  split_ifs with hver
  · exact inv_complete h _
  · exact inv_complete (inv_scorePicture h hver s.mem mask) _
  · exact inv_complete h _

/-- Every command completes and keeps the invariant. -/
theorem inv_exec {s : State} (h : Inv s) (i : Instr) : ∃ t, exec i s = .next t ∧ Inv t := by
  cases i with
  | nop => exact ⟨_, rfl, inv_complete h _⟩
  | clrg => exact ⟨_, rfl, inv_complete (inv_clearGrid h) _⟩
  | rsenc k e => exact inv_execRsenc h k e
  | place ver mask l => exact inv_execPlace h ver mask l
  | score ver mask => exact inv_execScore h ver mask
  | clrbest => exact ⟨_, rfl, inv_complete (inv_clearBest h) _⟩

/-! ### The moves -/

theorem inv_executeWord {s : State} (h : Inv s) (w : Word) : ∃ t, executeWord w s = .next t ∧ Inv t := by
  unfold executeWord
  split
  · exact inv_exec h _
  · exact ⟨_, rfl, inv_complete h _⟩
  · exact ⟨_, rfl, inv_complete h _⟩

theorem inv_endClear {s : State} (h : Inv s) : Inv (endClear s) :=
  { inv_clearGrid h with clearAlone := fun hclearing => Bool.noConfusion hclearing }

theorem inv_engineTurn {s : State} (h : Inv s) : ∃ t, engineTurn s = .next t ∧ Inv t := by
  unfold engineTurn
  split
  · exact ⟨_, rfl, inv_endClear h⟩
  · split
    · exact inv_executeWord h _
    · exact ⟨s, rfl, h⟩

theorem inv_hostRead {s : State} (h : Inv s) (a : Addr) : Inv (hostRead a s) := by
  rcases hostRead_cases a s with hread | ⟨-, hread⟩ <;> rw [hread]
  · exact { h with }
  · exact { h with }

/-- A command is accepted only while no clear runs, and a cell takes only one of the three codes. -/
theorem inv_hostWrite {s : State} (h : Inv s) (a : Addr) (v : Word) : Inv (hostWrite a v s) := by
  rcases hostWrite_cases a v s with ⟨-, hw⟩ | ⟨hbusy, hw | hw | hw | ⟨i, -, hw⟩ | ⟨r, c, x, hr, hc, hw⟩⟩ <;> rw [hw]
  · exact { h with }
  · have hclearing : s.clearing = false := (Bool.or_eq_false_iff.mp hbusy).2
    exact { h with clearAlone := fun htrue => absurd (hclearing.symm.trans htrue) Bool.false_ne_true }
  · exact { h with }
  · exact h
  · exact { h with }
  · exact inv_setCell h r c x hr hc

/-- Settles O54: after reset every list is empty, every number 0 and every hidden state absent. -/
theorem resetStateIsLegal : Obligations.ResetStateIsLegal where
  memWf := memory_wf_reset
  memLegal := by simp [State.reset]
  trackerEmpty := fun _ => ⟨rfl, rfl⟩
  bestBound := by decide
  totalExact := by decide
  penaltyBounds := by decide
  darkBound := by decide
  placeBound := by decide
  consumedBound := by decide
  hiddenIdle := ⟨rfl, rfl⟩
  clearAlone := fun _ => rfl

theorem inv_resetState (s : State) : Inv (resetState s) := { show Inv State.reset from resetStateIsLegal with }

/-- A released reset keeps the cells of the state before it. -/
theorem inv_resetStartState {s : State} (h : Inv s) : Inv (resetStartState s) :=
  { inv_resetState s with
    memWf := h.memWf
    memLegal := h.memLegal
    clearAlone := fun _ => rfl }

/-- Every move completes and keeps the invariant. -/
theorem inv_move {s : State} (h : Inv s) (e : Event) : ∃ t, move e s = .next t ∧ Inv t := by
  cases e with
  | read a => exact ⟨_, rfl, inv_hostRead h a⟩
  | write a v => exact ⟨_, rfl, inv_hostWrite h a v⟩
  | reset => exact ⟨_, rfl, inv_resetState s⟩
  | resetStart => exact ⟨_, rfl, inv_resetStartState h⟩
  | engine => exact inv_engineTurn h

theorem inv_popEvent {s : State} (h : Inv s) : Inv (popEvent s) := { h with }

/-- Settles O55: a step is one move, and each move keeps the invariant. -/
theorem stepKeepsTheInvariant : Obligations.StepKeepsTheInvariant := by
  intro s t h hstep
  obtain ⟨u, hmove, hu⟩ := inv_move (inv_popEvent h) (nextEvent s)
  obtain rfl : u = t := Host.Outcome.next.inj (hmove.symm.trans hstep)
  exact hu

end Sys2Proof.Machine
end

section
/-! STATUS and the register map, reads and writes of the host while BUSY = 0 (spec 10_state.md R22 to R31, R62). -/

namespace Sys2Proof.Machine

/-! ### The words of STATUS and BEST_MASK -/

/-- STATUS as a word of its five fields. -/
def statusOf (code : ErrCode) (overrun sticky isBusy : Bool) : Word :=
  0#24 ++ errCode code ++ 0#1 ++ BitVec.ofBool overrun ++ BitVec.ofBool sticky ++ BitVec.ofBool isBusy

theorem statusWord_eq_statusOf (s : State) : statusWord s = statusOf s.err s.ovr s.stickyErr (busy s) := rfl

theorem statusOf_fields (code : ErrCode) (overrun sticky isBusy : Bool) :
    (statusOf code overrun sticky isBusy).getLsbD 0 = isBusy ∧ (statusOf code overrun sticky isBusy).getLsbD 1 = sticky ∧
    (statusOf code overrun sticky isBusy).getLsbD 2 = overrun ∧ (statusOf code overrun sticky isBusy).getLsbD 3 = false ∧
    (statusOf code overrun sticky isBusy).extractLsb 7 4 = errCode code ∧
    (statusOf code overrun sticky isBusy).extractLsb 31 8 = 0 := by
  cases code <;> decide +revert

theorem busy_eq_true_iff (s : State) : busy s = true ↔ s.pending ≠ none ∨ s.clearing = true := by
  simp [busy, Option.isSome_iff_ne_none]

/-- Settles O41: the fields of STATUS, one by one. -/
theorem statusWordLayout : Obligations.StatusWordLayout := by
  intro s
  obtain ⟨hbusy, hsticky, hovr, hzero, herr, hhigh⟩ := statusOf_fields s.err s.ovr s.stickyErr (busy s)
  rw [statusWord_eq_statusOf, hbusy, herr, busy_eq_true_iff]
  refine ⟨Iff.rfl, hsticky, hovr, hzero, ?_, hhigh⟩
  cases s.err <;> rfl

theorem bestMaskWord_eq (s : State) :
    bestMaskWord s = (if s.bestValid then 0x80000000 else 0) + s.bestMaskId.setWidth 32 := by
  unfold bestMaskWord
  generalize s.bestValid = valid
  generalize s.bestMaskId = maskId
  decide +revert

/-! ### Where addresses lead -/

theorem wordAddr_ofNat {n : Nat} (h : n < 2 ^ 14) : wordAddr (BitVec.ofNat 14 n) = n / 4 * 4 := by
  rw [wordAddr_eq, BitVec.toNat_ofNat, Nat.mod_eq_of_lt h]

theorem locate_codewordAddr {i : Nat} (h : i < 100) : locate (BitVec.ofNat 14 (0x400 + 4 * i)) = .codeword i := by
  rw [locate, wordAddr_ofNat (by omega), locateWord_codeword _ (by omega) (by omega)]
  congr 1
  omega

theorem locate_cellAddr {r c : Nat} (hr : r < 33) (hc : c < 33) : locate (BitVec.ofNat 14 (cellAddr r c)) = .cell r c := by
  rw [locate, cellAddr_eq, wordAddr_ofNat (by omega), locateWord_cell _ (by omega) (by omega)]
  congr 1 <;> omega

theorem locate_of_mem_registerMap : ∀ x ∈ registerMap, locate (BitVec.ofNat 14 x.1) = .register x.2 := by decide

/-- The words up to 0x030 are the thirteen registers, CMD at 0x004 and STATUS at 0x008 only. -/
theorem locateWord_of_le : ∀ w ≤ 0x030, w % 4 = 0 →
    ∃ x ∈ registerMap, locateWord w = .register x.2 ∧ (x.2 = .cmd → w = 0x004) ∧ (x.2 = .status → w = 0x008) := by decide

/-- Settles O42: the low address bits by `wordAddr_eq`, each range by its offset, the registers by the map. -/
theorem busAddressMap : Obligations.BusAddressMap := by
  refine ⟨fun a b h => ?_, fun i => locate_codewordAddr, fun r c => locate_cellAddr, by decide⟩
  rw [locate, locate, wordAddr_eq, wordAddr_eq, h]

/-! ### Accesses while BUSY = 0 -/

theorem hostRead_idle {s : State} (h : busy s = false) (a : Addr) :
    hostRead a s = answerRead (locationWord s (locate a)) s := by
  simp [hostRead, h]

theorem hostWrite_idle {s : State} (h : busy s = false) (a : Addr) (v : Word) :
    hostWrite a v s = writeLocation (locate a) v s := by
  simp [hostWrite, h]

theorem writeLocation_register_other {name : RegName} (hcmd : name ≠ .cmd) (hstatus : name ≠ .status) (v : Word) (s : State) :
    writeLocation (.register name) v s = s := by
  cases name
  case cmd => exact absurd rfl hcmd
  case status => exact absurd rfl hstatus
  all_goals rfl

theorem clearStatusBits_eq (v : Word) (s : State) :
    clearStatusBits v s = { s with
      stickyErr := (if v.getLsbD 1 then false else s.stickyErr), ovr := (if v.getLsbD 2 then false else s.ovr) } := by
  have hclear : ∀ flag bit : Bool, (flag && !bit) = if bit then false else flag := by decide
  rw [clearStatusBits, hclear, hclear]

/-- Settles O46: CMD and STATUS by their word addresses, and every other register word leads to a name that ignores writes. -/
theorem registerWrites : Obligations.RegisterWrites := by
  intro s a v hbusy
  rw [hostWrite_idle hbusy, locate]
  refine ⟨fun h => ?_, fun h => ?_, fun hle hcmd hstatus => ?_⟩
  · rw [h]
    rfl
  · rw [h]
    exact clearStatusBits_eq v s
  · obtain ⟨x, -, hname, hxcmd, hxstatus⟩ := locateWord_of_le (wordAddr a) hle (by rw [wordAddr_eq]; omega)
    rw [hname]
    exact writeLocation_register_other (fun h => hcmd (hxcmd h)) (fun h => hstatus (hxstatus h)) v s

/-- Settles O47: the listed words are `registerWord` along the register map. -/
theorem registerReads : Obligations.RegisterReads := by
  intro s hbusy x hx
  rw [← bestMaskWord_eq] at hx
  obtain ⟨y, hy, rfl⟩ := List.mem_map.mp (show x ∈ registerMap.map fun y => (y.1, registerWord s y.2) from hx)
  rw [hostRead_idle hbusy, locate_of_mem_registerMap y hy]
  rfl

/-! ### CW and GRID -/

theorem hostRead_codeword {s : State} (h : busy s = false) {i : Nat} (hi : i < 100) {b : Byte} (hb : bufferGet s.cw i = b) :
    hostRead (BitVec.ofNat 14 (0x400 + 4 * i)) s = answerRead (b.setWidth 32) s := by
  rw [hostRead_idle h, locate_codewordAddr hi, locationWord, hb]

theorem hostWrite_codeword {s : State} (h : busy s = false) {i : Nat} (hi : i < 100) (v : Word) :
    hostWrite (BitVec.ofNat 14 (0x400 + 4 * i)) v s = { s with cw := s.cw.setIfInBounds i (v.extractLsb 7 0) } := by
  rw [hostWrite_idle h, locate_codewordAddr hi]
  rfl

/-- Settles O45: the write sets one entry of the buffer, and both accesses reach that entry. -/
theorem codewordWriteThenRead : Obligations.CodewordWriteThenRead := by
  intro s i v hbusy hi
  dsimp only
  rw [hostWrite_codeword hbusy hi]
  have hsame : bufferGet (s.cw.setIfInBounds i (v.extractLsb 7 0)) i = v.extractLsb 7 0 := by
    rw [bufferGet_set, if_pos ⟨rfl, hi⟩]
  refine ⟨hostRead_codeword hbusy hi rfl, hsame, hostRead_codeword ?_ hi hsame, fun j _ hne => ?_, rfl⟩
  · exact hbusy
  · rw [bufferGet_set, if_neg fun h => hne h.1.symm]

theorem hostRead_cell {s : State} (h : busy s = false) {r c : Nat} (hr : r < 33) (hc : c < 33) {x : Colour}
    (hx : cellAt s.mem r c = x) :
    hostRead (BitVec.ofNat 14 (cellAddr r c)) s = answerRead ((colourCode x).setWidth 32) s := by
  rw [hostRead_idle h, locate_cellAddr hr hc, locationWord, hx]

theorem hostWrite_cell {s : State} (h : busy s = false) {r c : Nat} (hr : r < 33) (hc : c < 33) (v : Word) :
    hostWrite (BitVec.ofNat 14 (cellAddr r c)) v s =
      { s with mem := setCell s.mem r c (colourOfBits (v.getLsbD 1) (v.getLsbD 0)) } := by
  rw [hostWrite_idle h, locate_cellAddr hr hc]
  rfl

theorem colourOfBits_eq (bit1 bit0 : Bool) :
    colourOfBits bit1 bit0 = if bit1 = false then .unassigned else if bit0 = false then .light else .dark := by
  cases bit1 <;> cases bit0 <;> rfl

theorem colourCode_colourOfBits (bit1 bit0 : Bool) :
    ((colourCode (colourOfBits bit1 bit0)).setWidth 32 : Word) = if bit1 = false then 0 else if bit0 = false then 2 else 3 := by
  cases bit1 <;> cases bit0 <;> rfl

/-- Settles O44: the write stores one cell, and both accesses reach that cell. -/
theorem gridWriteThenRead : Obligations.GridWriteThenRead := by
  intro s r c v hbusy hr hc
  dsimp only
  rw [hostWrite_cell hbusy hr hc]
  refine ⟨?_, fun hinv => ?_⟩
  · rw [hostRead_cell hbusy hr hc rfl]
    cases cellAt s.mem r c <;> rfl
  · have hsame := cellAt_setCell_same s.mem r c (colourOfBits (v.getLsbD 1) (v.getLsbD 0)) (.inl hinv.memWf)
    refine ⟨hsame.trans (colourOfBits_eq _ _), ?_, fun x hx => read_setCell_other _ _ _ _ _ hx, rfl⟩
    rw [← colourCode_colourOfBits]
    refine hostRead_cell ?_ hr hc hsame
    exact hbusy

end Sys2Proof.Machine
end

section
/-! Reset: the values it leaves, and the clear of GRID as a step of its own (spec 70_reset_and_hazards.md R270, R272). -/

namespace Sys2Proof.Machine

/-- Settles O53: field by field of `State.reset`; no cell is listed in its memory. -/
theorem resetStateValues : Obligations.ResetStateValues :=
  ⟨rfl, rfl, rfl, rfl, fun r c _ _ => cellAt_nil r c, rfl, rfl⟩

/-- During the clear STATUS reads 1: BUSY, and every other field at its reset value. -/
theorem statusWord_resetStartState (s : State) : statusWord (resetStartState s) = 1 :=
  (statusWord_eq_statusOf _).trans (show statusOf .ok false false true = 1 by decide)

theorem statusWord_resetState (s : State) : statusWord (resetState s) = 0 :=
  (statusWord_eq_statusOf _).trans (show statusOf .ok false false false = 0 by decide)

/-- The cells that the clear wipes are all that a released reset keeps of the state before it. -/
theorem endClear_resetStartState (s : State) : endClear (resetStartState s) = resetState s := rfl

theorem engineTurn_of_clearing {s : State} (h : s.clearing = true) : engineTurn s = .next (endClear s) := by
  rw [engineTurn, if_pos h]

theorem hostRead_id (s : State) : hostRead 0x000#14 s = answerRead idValue s := by
  have h : locate 0x000#14 = .register .id := by decide
  simp [hostRead, h, exactWhileBusy, locationWord, registerWord]

/-- The engine's turn during the clear leaves what the atomic reset leaves. -/
theorem step_resetStartState {s : State} {rest : List Event} (h : s.events = .engine :: rest) :
    step (resetStartState s) = .next (resetState { s with events := rest }) := by
  rw [step_of_events_cons (show (resetStartState s).events = .engine :: rest from h), move]
  exact (engineTurn_of_clearing rfl).trans (congrArg Host.Outcome.next (endClear_resetStartState { s with events := rest }))

/-- The boot's last two reads: STATUS, then ID. -/
theorem run_boot_reads (s : State) (h : s.events = asmRd 0x008 ++ asmRd 0x000) :
    core.run 2 s = .next { s with events := [], reads := idValue :: statusWord s :: s.reads } := by
  have hstatus : step s = .next (answerRead (statusWord s) { s with events := asmRd 0x000 }) := by
    rw [step_of_events_cons (show s.events = .read 0x008#14 :: asmRd 0x000 from h), move, hostRead_status]
    rfl
  have hid : step (answerRead (statusWord s) { s with events := asmRd 0x000 }) =
      .next { s with events := [], reads := idValue :: statusWord s :: s.reads } := by
    rw [step_of_events_cons (show (answerRead _ _).events = .read 0x000#14 :: [] from rfl), move, hostRead_id]
    rfl
  rw [run_succ_of_step _ _ _ hstatus, run_succ_of_step _ _ _ hid]
  rfl

/-- The boot from a released reset on: the polls, the end of the clear, and two reads. -/
theorem run_boot (s : State) (polls : Nat) (h : s.events = asmBoot polls) :
    core.run (polls + 3) (resetStartState s) = .next { resetState s with
      events := [], reads := idValue :: 0 :: (List.replicate polls 1 ++ s.reads) } := by
  have hsplit : (resetStartState s).events =
      List.replicate polls (.read 0x008#14) ++ .engine :: (asmRd 0x008 ++ asmRd 0x000) := by
    simp [show (resetStartState s).events = asmBoot polls from h, asmBoot, asmWait]
  rw [run_add_of_run _ _ _ _ (run_polls polls _ _ hsplit), statusWord_resetStartState]
  have hclear := step_resetStartState (rest := asmRd 0x008 ++ asmRd 0x000)
    (s := { s with
      events := .engine :: (asmRd 0x008 ++ asmRd 0x000)
      reads := List.replicate polls 1 ++ s.reads }) rfl
  refine (run_succ_of_step _ _ _ hclear).trans ?_
  rw [run_boot_reads _ rfl, statusWord_resetState]
  rfl

/-- Settles O52: the engine ends the clear in the state of the atomic reset, and polls before it change no more than what the host has
read. -/
theorem resetClearEndsAsTheAtomicReset : Obligations.ResetClearEndsAsTheAtomicReset := by
  refine ⟨fun s rest h => ⟨_, step_of_events_cons h, ?_, ?_⟩, fun s polls h => ?_⟩
  · rw [statusWord_resetStartState]
    decide
  · rw [step_resetStartState rfl, step_of_events_cons rfl]
    rfl
  · rw [run_succ_of_step _ _ _ (step_of_events_cons h)]
    exact run_boot _ polls rfl

end Sys2Proof.Machine
end

section
/-! Every move of every agent completes (spec 20_memory.md R70, 40_control.md R121, 60_exceptions.md R246). -/

namespace Sys2Proof.Machine

theorem exec_completes (i : Instr) (s : State) : ∃ t, exec i s = .next t := by
  cases i with
  | nop => exact ⟨_, rfl⟩
  | clrg => exact ⟨_, rfl⟩
  | rsenc k e => exact ⟨_, execRsenc_eq k e s⟩
  | place ver mask l => exact ⟨_, execPlace_eq ver mask l s⟩
  | score ver mask => exact ⟨_, execScore_eq ver mask s⟩
  | clrbest => exact ⟨_, rfl⟩

/-- A word executes as its command, or completes with ERR_OPCODE when it is none. -/
theorem executeWord_cases (w : Word) :
    (∃ i, ∀ s, executeWord w s = exec i s) ∨ ∀ s, executeWord w s = .next (complete .opcode s) := by
  unfold executeWord
  split
  · exact .inl ⟨_, fun _ => rfl⟩
  · exact .inr fun _ => rfl
  · exact .inr fun _ => rfl

theorem executeWord_completes (w : Word) (s : State) : ∃ t, executeWord w s = .next t := by
  rcases executeWord_cases w with ⟨i, hi⟩ | hrejected
  · rw [hi]
    exact exec_completes i s
  · exact ⟨_, hrejected s⟩

theorem engineTurn_of_pending {s : State} {w : Word} (hclearing : s.clearing = false) (hpending : s.pending = some w) :
    engineTurn s = executeWord w s := by
  simp [engineTurn, hclearing, hpending]

theorem engineTurn_of_idle {s : State} (hclearing : s.clearing = false) (hpending : s.pending = none) :
    engineTurn s = .next s := by
  simp [engineTurn, hclearing, hpending]

theorem engineTurn_completes (s : State) : ∃ t, engineTurn s = .next t := by
  cases hclearing : s.clearing
  case true => exact ⟨_, engineTurn_of_clearing hclearing⟩
  case false =>
    cases hpending : s.pending with
    | none => exact ⟨s, engineTurn_of_idle hclearing hpending⟩
    | some w =>
      rw [engineTurn_of_pending hclearing hpending]
      exact executeWord_completes w s

/-- Settles O7: the host's moves and the resets answer a state outright, and the engine's turn ends the clear, idles, or runs a word,
which always completes. -/
theorem everyStateHasNextState : Obligations.EveryStateHasNextState := by
  intro s
  rw [step]
  cases nextEvent s with
  | read a => exact ⟨_, rfl⟩
  | write a v => exact ⟨_, rfl⟩
  | reset => exact ⟨_, rfl⟩
  | resetStart => exact ⟨_, rfl⟩
  | engine => exact engineTurn_completes _

end Sys2Proof.Machine
end

section
/-! Unmapped words (spec 20_memory.md R64). -/

namespace Sys2Proof.Machine

theorem locate_unmapped {a : Addr}
    (h : (0x034 ≤ a.toNat ∧ a.toNat ≤ 0x3FF) ∨ (0x590 ≤ a.toNat ∧ a.toNat ≤ 0xFFF) ∨ 0x2104 ≤ a.toNat) :
    locate a = .unmapped := by
  rw [locate, wordAddr_eq]
  exact locateWord_unmapped _ (by omega)

/-- The locations of R276 answer their word at any time. -/
theorem hostRead_exact {a : Addr} {s : State} (h : exactWhileBusy (locate a) = true) :
    hostRead a s = answerRead (locationWord s (locate a)) s := by
  simp [hostRead, h]

/-- Settles O43: the three ranges are made of whole words, all of which lead to `unmapped`, whose reads are exact even while BUSY = 1. -/
theorem unmappedWordsReadZero : Obligations.UnmappedWordsReadZero := by
  intro s a v haddr
  have hloc := locate_unmapped haddr
  refine ⟨?_, fun hidle => ?_⟩
  · rw [hostRead_exact (by rw [hloc]; rfl), hloc]
    rfl
  · rw [hostWrite_idle hidle, hloc]
    rfl

end Sys2Proof.Machine
end

section
/-! What each command may touch (spec 20_memory.md R78, 10_state.md R36, R37). -/

namespace Sys2Proof.Machine

/-! ### CLRG -/

theorem exists_cellAddr_of_legalCell {x : Host.Cell} (h : legalCell x = true) :
    ∃ r c, r < 33 ∧ c < 33 ∧ x.1 = cellAddr r c := by
  simp only [legalCell, Bool.and_eq_true, decide_eq_true_eq] at h
  obtain ⟨⟨⟨hlow, hhigh⟩, halign⟩, -⟩ := h
  refine ⟨(x.1 - 0x1000) / 4 / 33, (x.1 - 0x1000) / 4 % 33, ?_, ?_, ?_⟩
  · omega
  · omega
  · rw [cellAddr_eq]
    omega

/-- A legal state lists nothing but cells of the RAM. -/
theorem read_of_not_cellAddr {s : State} (h : Inv s) {a : Nat} (ha : ∀ r c, r < 33 → c < 33 → a ≠ cellAddr r c) :
    s.mem.read a = Memory.unlisted := by
  refine memory_read_of_not_mem _ _ fun x hx heq => ?_
  obtain ⟨r, c, hr, hc, haddr⟩ := exists_cellAddr_of_legalCell (h.memLegal x hx)
  exact ha r c hr hc (heq.symm.trans haddr)

/-! ### RSENC -/

/-- Entries before and after the stored bytes are kept, at any index. -/
theorem bufferGet_store_outside {n : Nat} (v : Vector Byte n) (i j : Nat) (bs : List Byte) (h : j < i ∨ i + bs.length ≤ j) :
    bufferGet (bufferStore v i bs) j = bufferGet v j := by
  induction bs generalizing v i with
  | nil => rfl
  | cons b bs ih =>
    rw [List.length_cons] at h
    rw [bufferStore, ih _ _ (by omega), bufferGet_set, if_neg (by omega)]

theorem execRsenc_frame {k e : Nat} {s t : State} (h : execRsenc k e s = .next t) :
    t = { s with
      cw := t.cw, rem := t.rem, err := t.err, stickyErr := t.stickyErr, pending := none, walker := none, scorer := none } ∧
    (∀ j, j < k ∨ k + e ≤ j → bufferGet t.cw j = bufferGet s.cw j) ∧
    (∀ j, e ≤ j → bufferGet t.rem j = bufferGet s.rem j) := by
  rw [execRsenc_eq] at h
  obtain rfl := Host.Outcome.next.inj h
  split_ifs with he hk
  · exact ⟨rfl, fun _ _ => rfl, fun _ _ => rfl⟩
  · have hlen : (eccOf s.cw k e).length = e := length_rsRemainder _ e he
    refine ⟨rfl, fun j hj => ?_, fun j hj => ?_⟩
    · exact bufferGet_store_outside _ _ _ _ (by rwa [hlen])
    · exact bufferGet_store_outside _ _ _ _ (by omega)
  · exact ⟨rfl, fun _ _ => rfl, fun _ _ => rfl⟩

/-! ### PLACE -/

/-- The walk stores to its data modules only. -/
theorem read_placeAll_other {entries : Nat} (cw : Vector Byte entries) (mask l : Nat) (m : Memory) {side a : Nat} (hside : side ≤ 33)
    (ha : ∀ pos ∈ walk side, cellAt m pos.1 pos.2 = .unassigned → a ≠ cellAddr pos.1 pos.2) :
    (placeAll Config.hw cw mask l m side).mem.read a = m.read a := by
  have hstart : Counted l ⟨m, 0, 0⟩ 0 := by simp [Counted]
  obtain ⟨-, hother, -⟩ := placeFold_spec cw mask l (walk side) (walk_addresses_differ hside) ⟨m, 0, 0⟩ 0 hstart
  exact hother a ha

theorem execPlace_frame {ver mask l : Nat} {s t : State} (h : execPlace ver mask l s = .next t) :
    t = { s with
      mem := t.mem, placeConsumed := t.placeConsumed, placeDefaulted := t.placeDefaulted, err := t.err,
      stickyErr := t.stickyErr, pending := none, walker := none, scorer := none } ∧
    (∀ a, (∀ pos ∈ walk (sideLength ver), cellAt s.mem pos.1 pos.2 = .unassigned → a ≠ cellAddr pos.1 pos.2) →
      t.mem.read a = s.mem.read a) := by
  rw [execPlace_eq] at h
  obtain rfl := Host.Outcome.next.inj h
  split_ifs with hver hl
  · exact ⟨rfl, fun _ _ => rfl⟩
  · exact ⟨rfl, fun a ha => read_placeAll_other s.cw mask l s.mem (sideLength_bounds hver).2 ha⟩
  · exact ⟨rfl, fun _ _ => rfl⟩

/-! ### SCORE -/

theorem execScore_frame {ver mask : Nat} {s t : State} (h : execScore ver mask s = .next t) :
    t = { s with
      p1Run := t.p1Run, p2Block := t.p2Block, p3Finder := t.p3Finder, p4Balance := t.p4Balance, total := t.total,
      darkCount := t.darkCount, bestScore := t.bestScore, bestValid := t.bestValid, bestMaskId := t.bestMaskId,
      err := t.err, stickyErr := t.stickyErr, pending := none, walker := none, scorer := none } := by
  rw [execScore_eq] at h
  obtain rfl := Host.Outcome.next.inj h
  split_ifs
  · rfl
  · rw [scorePicture, updateBest_eq]
    rfl
  · rfl

/-- Settles O14: each command is an error, which touches STATUS only, or its named update of the state; what the update keeps of a
memory or a buffer is the lemma of its section. -/
theorem commandsTouchOnlyTheirTable : Obligations.CommandsTouchOnlyTheirTable := by
  intro i s t h
  cases i with
  | nop =>
    obtain rfl : complete .ok s = t := Host.Outcome.next.inj h
    rfl
  | clrg =>
    obtain rfl : complete .ok (clearGrid s) = t := Host.Outcome.next.inj h
    exact ⟨rfl, fun a ha hinv => (read_of_not_cellAddr hinv ha).symm⟩
  | rsenc k e => exact execRsenc_frame h
  | place ver mask l => exact execPlace_frame h
  | score ver mask => exact execScore_frame h
  | clrbest =>
    obtain rfl : complete .ok (clearBest s) = t := Host.Outcome.next.inj h
    rfl

end Sys2Proof.Machine
end

section
/-! A command that is pending while the host goes on with reads and writes (spec 20_memory.md R73, 40_control.md R121,
70_reset_and_hazards.md R275, R276). -/

namespace Sys2Proof.Machine

/-- The three fields that accesses while BUSY = 1 can change: OVR, and the model's own reads and draws. No command looks at them. -/
def recordAccess (overrun : Bool) (reads : List Word) (draws : Nat) (s : State) : State :=
  { s with ovr := overrun, reads := reads, draws := draws }

/-! ### Accesses while BUSY = 1 -/

theorem hostRead_eq_recordAccess (a : Addr) (s : State) :
    ∃ reads draws, hostRead a s = recordAccess s.ovr reads draws s := by
  rcases hostRead_cases a s with hread | ⟨-, hread⟩
  · exact ⟨_, _, hread⟩
  · exact ⟨_, _, hread⟩

theorem hostWrite_busy {s : State} (h : busy s = true) (a : Addr) (v : Word) : hostWrite a v s = { s with ovr := true } := by
  simp [hostWrite, h]

theorem move_busy_access {s : State} {e : Event} (hbusy : busy s = true) (he : isAccess e = true) :
    ∃ reads draws, move e s = .next (recordAccess (s.ovr || isWrite e) reads draws s) := by
  cases e with
  | read a =>
    obtain ⟨reads, draws, hread⟩ := hostRead_eq_recordAccess a s
    refine ⟨reads, draws, ?_⟩
    rw [move, hread, isWrite, Bool.or_false]
  | write a v =>
    refine ⟨s.reads, s.draws, ?_⟩
    rw [move, hostWrite_busy hbusy, isWrite, Bool.or_true]
    rfl
  | reset => cases he
  | resetStart => cases he
  | engine => cases he

/-- OVR collects the writes among the accesses. -/
theorem run_busy_accesses (accesses : List Event) (s : State) (hbusy : busy s = true) (hall : accesses.all isAccess = true)
    (hevents : s.events = accesses) :
    ∃ reads draws, core.run accesses.length s =
      .next (recordAccess (s.ovr || accesses.any isWrite) reads draws { s with events := [] }) := by
  induction accesses generalizing s with
  | nil =>
    refine ⟨s.reads, s.draws, congrArg Host.Outcome.next ?_⟩
    rw [List.any_nil, Bool.or_false, ← hevents]
    rfl
  | cons e rest ih =>
    obtain ⟨he, hrest⟩ := Bool.and_eq_true_iff.mp (List.all_cons ▸ hall)
    obtain ⟨reads, draws, hmove⟩ := move_busy_access (s := { s with events := rest }) hbusy he
    have hstep := (step_of_events_cons hevents).trans hmove
    obtain ⟨reads', draws', hrun⟩ := ih (recordAccess (s.ovr || isWrite e) reads draws { s with events := rest }) hbusy hrest rfl
    refine ⟨reads', draws', ?_⟩
    rw [List.length_cons, run_succ_of_step _ _ _ hstep, hrun, List.any_cons, ← Bool.or_assoc]
    rfl

/-! ### Commands do not look at what the accesses change -/

section
variable (overrun : Bool) (reads : List Word) (draws : Nat)

@[simp] theorem recordAccess_mem (s : State) : (recordAccess overrun reads draws s).mem = s.mem := rfl

theorem updateBest_recordAccess (mask : Nat) (score : Word) (s : State) :
    updateBest mask score (recordAccess overrun reads draws s) = recordAccess overrun reads draws (updateBest mask score s) := by
  have hbeats : beatsBest mask score (recordAccess overrun reads draws s) = beatsBest mask score s := rfl
  rw [updateBest, updateBest, hbeats, apply_ite (recordAccess overrun reads draws)]
  rfl

theorem scorePicture_recordAccess (p : List (List Bool)) (side mask : Nat) (s : State) :
    scorePicture p side mask (recordAccess overrun reads draws s) =
      recordAccess overrun reads draws (scorePicture p side mask s) := by
  rw [scorePicture, scorePicture, ← updateBest_recordAccess]
  rfl

theorem exec_recordAccess {i : Instr} {s t : State} (h : exec i s = .next t) :
    exec i (recordAccess overrun reads draws s) = .next (recordAccess overrun reads draws t) := by
  cases i with
  | nop => obtain rfl := Host.Outcome.next.inj h; rfl
  | clrg => obtain rfl := Host.Outcome.next.inj h; rfl
  | rsenc k e =>
    obtain rfl := Host.Outcome.next.inj ((execRsenc_eq k e s).symm.trans h)
    refine (execRsenc_eq k e _).trans (congrArg Host.Outcome.next ?_)
    split_ifs <;> rfl
  | place ver mask l =>
    obtain rfl := Host.Outcome.next.inj ((execPlace_eq ver mask l s).symm.trans h)
    refine (execPlace_eq ver mask l _).trans (congrArg Host.Outcome.next ?_)
    split_ifs <;> rfl
  | score ver mask =>
    obtain rfl := Host.Outcome.next.inj ((execScore_eq ver mask s).symm.trans h)
    refine (execScore_eq ver mask _).trans (congrArg Host.Outcome.next ?_)
    rw [recordAccess_mem, scorePicture_recordAccess]
    split_ifs <;> rfl
  | clrbest => obtain rfl := Host.Outcome.next.inj h; rfl

theorem executeWord_recordAccess {w : Word} {s t : State} (h : executeWord w s = .next t) :
    executeWord w (recordAccess overrun reads draws s) = .next (recordAccess overrun reads draws t) := by
  rcases executeWord_cases w with ⟨i, hi⟩ | hrejected
  · rw [hi] at h ⊢
    exact exec_recordAccess overrun reads draws h
  · rw [hrejected] at h ⊢
    obtain rfl := Host.Outcome.next.inj h
    rfl

end

/-! ### From the acceptance to the completion -/

/-- An idle block accepts the word that a write to CMD gives (R120). -/
theorem step_accepts {s : State} {a : Addr} {w : Word} {rest : List Event} (hidle : busy s = false) (ha : wordAddr a = 0x004)
    (hevents : s.events = .write a w :: rest) : step s = .next { s with events := rest, pending := some w } := by
  have hwrite : hostWrite a w { s with events := rest } = { s with events := rest, pending := some w } := by
    obtain ⟨hcmd, -⟩ := registerWrites { s with events := rest } a w hidle
    exact hcmd ha
  rw [step_of_events_cons hevents, move, hwrite]

/-- The accesses change `recordAccess`'s fields only, and the command carries these through unread. -/
theorem run_pending {s u : State} {w : Word} {accesses : List Event} (hclearing : s.clearing = false)
    (hpending : s.pending = some w) (hall : accesses.all isAccess = true) (hevents : s.events = accesses)
    (hu : executeWord w { s with events := [] } = .next u) :
    ∃ reads draws, core.run (accesses.length + 1) s =
      .next (recordAccess (s.ovr || accesses.any isWrite) reads draws u) := by
  have hbusy : busy s = true := by simp [busy, hpending]
  obtain ⟨reads, draws, hrun⟩ := run_busy_accesses accesses s hbusy hall hevents
  refine ⟨reads, draws, ?_⟩
  rw [run_add_of_run _ 1 _ _ hrun]
  refine run_succ_of_step 0 _ _ ((step_of_events_nil rfl).trans ?_)
  refine (engineTurn_of_pending ?_ ?_).trans (executeWord_recordAccess _ _ _ hu)
  · exact hclearing
  · exact hpending

/-- Settles O11: after the acceptance the command is pending (`run_pending`), and every word completes (`executeWord_completes`). -/
theorem pendingCommandRunsOnItsAcceptanceState : Obligations.PendingCommandRunsOnItsAcceptanceState := by
  intro s a w accesses hidle ha hall hevents
  have hclearing : s.clearing = false := (Bool.or_eq_false_iff.mp hidle).2
  obtain ⟨u, hu⟩ := executeWord_completes w { s with events := [], pending := some w }
  obtain ⟨reads, draws, hrun⟩ :=
    run_pending (s := { s with events := accesses, pending := some w }) hclearing rfl hall rfl hu
  refine ⟨recordAccess (s.ovr || accesses.any isWrite) reads draws u, u, ?_, hu, rfl⟩
  exact (run_succ_of_step _ _ _ (step_accepts hidle ha hevents)).trans hrun

end Sys2Proof.Machine
end

section
/-! The decoder and the encoder, both held to the rows of the opcode table (spec 30_encoding.md R90 to R94, R102). -/

namespace Sys2Proof

/-- The row of the opcode table that command i stands in, read off the word w: the opcode, the reserved bits, the operands (R91). -/
def HasRow (w : Word) (i : Instr) : Prop :=
  bits w 31 28 = opcodeOf i ∧
  match i with
  | .nop | .clrg | .clrbest => bits w 27 0 = 0
  | .rsenc k e => bits w 27 21 = 0 ∧ bits w 20 16 = e ∧ bits w 15 8 = 0 ∧ bits w 7 0 = k
  | .place ver mask l => bits w 27 15 = 0 ∧ bits w 14 12 = ver ∧ bits w 11 8 = mask ∧ bits w 7 0 = l
  | .score ver mask => bits w 27 15 = 0 ∧ bits w 14 12 = ver ∧ bits w 11 8 = mask ∧ bits w 7 0 = 0

/-- The decoder accepts exactly the rows of the table. -/
theorem decode_eq_ok_iff (w : Word) (i : Instr) : decode w = .ok i ↔ HasRow w i := by
  constructor
  · intro h
    unfold decode at h
    split at h
    case h_7 => cases h -- a reserved opcode
    all_goals
      next hopcode =>
        split at h
        · next hreserved =>
          obtain rfl := Except.ok.inj h
          simp [HasRow, opcodeOf, hopcode, hreserved]
        · cases h
  · rintro ⟨hopcode, hfields⟩
    cases i with
    | nop | clrg | clrbest => simp [decode, hopcode, opcodeOf, show bits w 27 0 = 0 from hfields]
    | rsenc k e =>
      obtain ⟨hhigh, rfl, hmid, rfl⟩ := hfields
      simp [decode, hopcode, opcodeOf, hhigh, hmid]
    | place ver mask l =>
      obtain ⟨hhigh, rfl, rfl, rfl⟩ := hfields
      simp [decode, hopcode, opcodeOf, hhigh]
    | score ver mask =>
      obtain ⟨hhigh, rfl, rfl, hlow⟩ := hfields
      simp [decode, hopcode, opcodeOf, hhigh, hlow]

/-- A well-formed command has one word. -/
theorem encode_eq_iff {i : Instr} (h : WellFormed i) (w : Word) :
    encode i = w ↔ w.toNat = opcodeOf i * 0x10000000 + operandBits i := by
  rw [← encode_toNat h, BitVec.toNat_eq, eq_comm]

/-- The fields of a row fit together to the encoder's word, and no other word has them. -/
theorem hasRow_iff (w : Word) (i : Instr) : HasRow w i ↔ WellFormed i ∧ encode i = w := by
  rw [and_congr_right fun h => encode_eq_iff h w]
  have hw := w.isLt
  simp only [HasRow, bits_eq]
  cases i with
  | nop | clrg | clrbest =>
    simp only [true_and, opcodeOf, operandBits]
    omega
  | rsenc | place | score =>
    simp only [opcodeOf, operandBits]
    omega

theorem decode_iff (w : Word) (i : Instr) : decode w = .ok i ↔ WellFormed i ∧ encode i = w :=
  (decode_eq_ok_iff w i).trans (hasRow_iff w i)

/-- Settles O1: the encoder's word is the one that `decode_iff` names. -/
theorem decodeAfterEncode : Obligations.DecodeAfterEncode :=
  fun i h => (decode_iff (encode i) i).mpr ⟨h, rfl⟩

/-- Settles O2: the other direction of `decode_iff`. -/
theorem encodeAfterDecode : Obligations.EncodeAfterDecode :=
  fun w i => (decode_iff w i).mp

theorem decode_ne_ok_of_error {w : Word} {r : Reject} (h : decode w = .error r) (i : Instr) : decode w ≠ .ok i := by
  simp [h]

/-- Settles O4: the decoder runs on the nine words. -/
theorem specEncodingExamples : Obligations.SpecEncodingExamples :=
  ⟨rfl, rfl, rfl, rfl, rfl, rfl, rfl, decode_ne_ok_of_error (r := .reservedOpcode) rfl, decode_ne_ok_of_error (r := .reservedBit) rfl⟩

end Sys2Proof
end

section
/-! Illegal words (spec 30_encoding.md R93, 60_exceptions.md R240). -/

namespace Sys2Proof.Machine

/-- `legal(w)` over the fields that the decoder reads as numbers. -/
theorem legalWord_iff_bits (w : Word) : legalWord w ↔
    ((bits w 31 28 = 0x0 ∨ bits w 31 28 = 0x1 ∨ bits w 31 28 = 0x5) ∧ bits w 27 0 = 0) ∨
    (bits w 31 28 = 0x2 ∧ bits w 27 21 = 0 ∧ bits w 15 8 = 0) ∨
    (bits w 31 28 = 0x3 ∧ bits w 27 15 = 0) ∨
    (bits w 31 28 = 0x4 ∧ bits w 27 15 = 0 ∧ bits w 7 0 = 0) := by
  simp [legalWord, bits_eq_iff]

/-- `legal(w)` says that w has a row of the opcode table. -/
theorem legalWord_iff (w : Word) : legalWord w ↔ ∃ i, decode w = .ok i := by
  simp only [legalWord_iff_bits, decode_eq_ok_iff]
  constructor
  · rintro (⟨h | h | h, hzero⟩ | ⟨h, hhigh, hmid⟩ | ⟨h, hhigh⟩ | ⟨h, hhigh, hlow⟩)
    · exact ⟨.nop, h, hzero⟩
    · exact ⟨.clrg, h, hzero⟩
    · exact ⟨.clrbest, h, hzero⟩
    · exact ⟨.rsenc _ _, h, hhigh, rfl, hmid, rfl⟩
    · exact ⟨.place _ _ _, h, hhigh, rfl, rfl, rfl⟩
    · exact ⟨.score _ _, h, hhigh, rfl, rfl, hlow⟩
  · rintro ⟨i, h, hfields⟩
    cases i with
    | nop => exact .inl ⟨.inl h, hfields⟩
    | clrg => exact .inl ⟨.inr (.inl h), hfields⟩
    | clrbest => exact .inl ⟨.inr (.inr h), hfields⟩
    | rsenc =>
      obtain ⟨hhigh, -, hmid, -⟩ := hfields
      exact .inr (.inl ⟨h, hhigh, hmid⟩)
    | place =>
      obtain ⟨hhigh, -⟩ := hfields
      exact .inr (.inr (.inl ⟨h, hhigh⟩))
    | score =>
      obtain ⟨hhigh, -, -, hlow⟩ := hfields
      exact .inr (.inr (.inr ⟨h, hhigh, hlow⟩))

theorem executeWord_of_not_decode {w : Word} (h : ∀ i, decode w ≠ .ok i) (s : State) :
    executeWord w s = .next (complete .opcode s) := by
  unfold executeWord
  split
  · next i hi => exact absurd hi (h i)
  · rfl
  · rfl

theorem step_of_pending {s : State} {w : Word} (hevent : nextEvent s = .engine) (hclearing : s.clearing = false)
    (hpending : s.pending = some w) : step s = executeWord w (popEvent s) := by
  rw [step, hevent, move]
  exact engineTurn_of_pending hclearing hpending

/-- Settles O3: `legal(w)` is the decoder's own check (`legalWord_iff`), and the engine completes a rejected word with ERR_OPCODE. -/
theorem illegalWordsCompleteWithOpcodeError : Obligations.IllegalWordsCompleteWithOpcodeError := by
  refine fun w => ⟨(legalWord_iff w).mp, fun hillegal s hevent hclearing hpending => ?_⟩
  have hrejected : ∀ i, decode w ≠ .ok i := fun i hi => hillegal ((legalWord_iff w).mpr ⟨i, hi⟩)
  rw [step_of_pending hevent hclearing hpending, executeWord_of_not_decode hrejected]
  simp [complete, popEvent]

end Sys2Proof.Machine
end

section
/-! Safe moves (spec 30_encoding.md R101, 70_reset_and_hazards.md R275, R276). -/

namespace Sys2Proof.Machine

/-! ### The engine's turn -/

theorem exec_draws_ovr {i : Instr} {s t : State} (h : exec i s = .next t) : t.draws = s.draws ∧ t.ovr = s.ovr := by
  have hframe := commandsTouchOnlyTheirTable i s t h
  cases i with
  | nop | clrbest | score =>
    rw [hframe]
    exact ⟨rfl, rfl⟩
  | clrg | rsenc | place =>
    obtain ⟨hframe, -⟩ := hframe
    rw [hframe]
    exact ⟨rfl, rfl⟩

theorem executeWord_draws_ovr {w : Word} {s t : State} (h : executeWord w s = .next t) :
    t.draws = s.draws ∧ t.ovr = s.ovr := by
  rcases executeWord_cases w with ⟨i, hi⟩ | hrejected
  · exact exec_draws_ovr ((hi s).symm.trans h)
  · obtain rfl := Host.Outcome.next.inj ((hrejected s).symm.trans h)
    exact ⟨rfl, rfl⟩

theorem engineTurn_draws_ovr {s t : State} (h : engineTurn s = .next t) : t.draws = s.draws ∧ t.ovr = s.ovr := by
  cases hclearing : s.clearing
  case true =>
    obtain rfl := Host.Outcome.next.inj ((engineTurn_of_clearing hclearing).symm.trans h)
    exact ⟨rfl, rfl⟩
  case false =>
    cases hpending : s.pending with
    | none =>
      obtain rfl := Host.Outcome.next.inj ((engineTurn_of_idle hclearing hpending).symm.trans h)
      exact ⟨rfl, rfl⟩
    | some w => exact executeWord_draws_ovr ((engineTurn_of_pending hclearing hpending).symm.trans h)

/-! ### The host's accesses -/

/-- A safe read is exact: BUSY = 0, or the location is one that R276 keeps exact. -/
theorem hostRead_safe {s : State} {a : Addr} (h : safeMove s (.read a) = true) :
    hostRead a s = answerRead (locationWord s (locate a)) s := by
  rcases hostRead_cases a s with hanswer | ⟨hbusy, -⟩
  · exact hanswer
  · exact hostRead_exact (by simpa [safeMove, hbusy] using h)

/-- A write while BUSY = 0 draws nothing, and changes OVR by clearing it only (R25). -/
theorem hostWrite_idle_draws_ovr {s : State} (h : busy s = false) (a : Addr) (v : Word) :
    (hostWrite a v s).draws = s.draws ∧ ((hostWrite a v s).ovr = true → s.ovr = true) := by
  rcases hostWrite_cases a v s with ⟨hbusy, -⟩ | ⟨-, hw | hw | hw | ⟨i, -, hw⟩ | ⟨r, c, x, -, -, hw⟩⟩
  case inl => exact absurd (hbusy.symm.trans h) (by simp)
  case inr.inr.inl =>
    rw [hw]
    exact ⟨rfl, fun hovr => (Bool.and_eq_true_iff.mp hovr).1⟩
  all_goals rw [hw]; exact ⟨rfl, id⟩

/-- Settles O50: a safe read is exact, a safe write finds BUSY = 0, and the engine touches neither the count of draws nor OVR. -/
theorem safeMovesNeitherOverrunNorDraw : Obligations.SafeMovesNeitherOverrunNorDraw := by
  intro s t hsafe hreset hstart hstep
  rw [step] at hstep
  rw [SafeNext] at hsafe
  cases hevent : nextEvent s with
  | read a =>
    rw [hevent] at hstep hsafe
    obtain rfl := Host.Outcome.next.inj hstep
    rw [hostRead_safe (s := popEvent s) hsafe]
    exact ⟨rfl, id⟩
  | write a v =>
    rw [hevent] at hstep hsafe
    obtain rfl := Host.Outcome.next.inj hstep
    have hidle : busy (popEvent s) = false := (Bool.not_eq_true' _).mp hsafe
    exact hostWrite_idle_draws_ovr hidle a v
  | reset => exact absurd hevent hreset
  | resetStart => exact absurd hevent hstart
  | engine =>
    rw [hevent] at hstep
    obtain ⟨hdraws, hovr⟩ := engineTurn_draws_ovr hstep
    exact ⟨hdraws, fun h => hovr.symm.trans h⟩

end Sys2Proof.Machine
end

section
/-! The commands without operands (spec 40_control.md R123 to R126). -/

namespace Sys2Proof.Machine

/-! ### The word of a pending command -/

theorem executeWord_of_decode {w : Word} {i : Instr} (h : decode w = .ok i) (s : State) : executeWord w s = exec i s := by
  rw [executeWord, h]

/-- Settles O5: the engine's turn executes the pending word, which is the command that the word decodes to. -/
theorem stepRunsTheDecodedCommand : Obligations.StepRunsTheDecodedCommand := by
  intro s w i hevent hclearing hpending hdecode
  rw [step_of_pending hevent hclearing hpending, executeWord_of_decode hdecode, popEvent]

/-! ### Reserved bits -/

theorem complete_ok_eq (s : State) :
    complete .ok s = { s with err := .ok, pending := none, walker := none, scorer := none } := by
  simp [complete]

theorem complete_opcode_eq (s : State) :
    complete .opcode s = { s with err := .opcode, stickyErr := true, pending := none, walker := none, scorer := none } := by
  simp [complete]

/-- An opcode without operands reserves all of bits 27:0 (R91). -/
theorem not_legalWord_of_reserved {w : Word}
    (hopcode : w.extractLsb 31 28 = 0x0 ∨ w.extractLsb 31 28 = 0x1 ∨ w.extractLsb 31 28 = 0x5)
    (hreserved : w.extractLsb 27 0 ≠ 0) : ¬ legalWord w := by
  rcases hopcode with h | h | h <;> simpa [legalWord, h] using hreserved

/-- A set reserved bit completes the word with ERR_OPCODE, and nothing but STATUS changes (R124, R125, R126). -/
theorem executeWord_of_reserved {w : Word}
    (hopcode : w.extractLsb 31 28 = 0x0 ∨ w.extractLsb 31 28 = 0x1 ∨ w.extractLsb 31 28 = 0x5)
    (hreserved : w.extractLsb 27 0 ≠ 0) (s : State) :
    executeWord w s =
      .next { s with err := .opcode, stickyErr := true, pending := none, walker := none, scorer := none } := by
  have hrejected : ∀ i, decode w ≠ .ok i := fun i hi =>
    not_legalWord_of_reserved hopcode hreserved ((legalWord_iff w).mpr ⟨i, hi⟩)
  rw [executeWord_of_not_decode hrejected, complete_opcode_eq]

/-! ### What the commands do -/

theorem exec_nop (s : State) : exec .nop s = .next (complete .ok s) := rfl

theorem exec_clrg (s : State) : exec .clrg s = .next (complete .ok (clearGrid s)) := rfl

theorem exec_clrbest (s : State) : exec .clrbest s = .next (complete .ok (clearBest s)) := rfl

/-- Settles O8: NOP is a completion with code 0 and no more. -/
theorem nopClearsErrAndNothingElse : Obligations.NopClearsErrAndNothingElse := by
  refine ⟨rfl, rfl, fun w hopcode => executeWord_of_reserved (.inl hopcode), fun s => ?_⟩
  rw [exec_nop, complete_ok_eq]

/-- Settles O9: the cleared memory lists nothing, and a legal state lists nothing but cells (`read_of_not_cellAddr`). -/
theorem clrgClearsEveryCell : Obligations.ClrgClearsEveryCell := by
  refine ⟨rfl, rfl, fun w hopcode => executeWord_of_reserved (.inr (.inl hopcode)), fun s => ⟨_, exec_clrg s, ?_, ?_, ?_⟩⟩
  · exact fun r c _ _ => cellAt_nil r c
  · exact fun a ha hinv => (read_of_not_cellAddr hinv ha).symm
  · rw [complete_ok_eq]
    rfl

/-- Settles O10: CLRBEST completes with code 0 on the state whose tracker is empty, and BEST_MASK is made of the tracker's fields. -/
theorem clrbestEmptiesTheTracker : Obligations.ClrbestEmptiesTheTracker := by
  refine ⟨rfl, rfl, fun w hopcode => executeWord_of_reserved (.inr (.inr hopcode)), fun s => ⟨_, exec_clrbest s, rfl, ?_, ?_⟩⟩
  · rw [bestMaskWord_eq]
    rfl
  · rw [complete_ok_eq]
    rfl

end Sys2Proof.Machine
end

section
/-! GF(256): the laws of a field, and the powers of α that the printed tables hold (spec 41_rs_encoder.md R140 to R143). -/

namespace Sys2Proof.Machine

/-! ### The laws of the multiplication -/

/-- Both sides are linear in each factor, so the single bits decide. -/
theorem gfMul_comm (a b : Byte) : gfMul Config.hw a b = gfMul Config.hw b a := by
  have hbits : ∀ i < 8, ∀ j < 8, gfMul Config.hw (BitVec.twoPow 8 i) (BitVec.twoPow 8 j) =
      gfMul Config.hw (BitVec.twoPow 8 j) (BitVec.twoPow 8 i) := by
    decide
  induction a using byte_induction with
  | h0 => rw [gfMul_zero_left, gfMul_zero_right]
  | hx a a' ha ha' => rw [gfMul_xor_left, gfMul_xor_right, ha, ha']
  | hb i hi =>
    induction b using byte_induction with
    | h0 => rw [gfMul_zero_left, gfMul_zero_right]
    | hx b b' hb hb' => rw [gfMul_xor_left, gfMul_xor_right, hb, hb']
    | hb j hj => exact hbits i hi j hj

/-- Both sides are linear in each factor, so the single bits decide. -/
theorem gfMul_assoc (a b c : Byte) :
    gfMul Config.hw (gfMul Config.hw a b) c = gfMul Config.hw a (gfMul Config.hw b c) := by
  have hbits : ∀ i < 8, ∀ j < 8, ∀ k < 8,
      gfMul Config.hw (gfMul Config.hw (BitVec.twoPow 8 i) (BitVec.twoPow 8 j)) (BitVec.twoPow 8 k) =
        gfMul Config.hw (BitVec.twoPow 8 i) (gfMul Config.hw (BitVec.twoPow 8 j) (BitVec.twoPow 8 k)) := by
    decide +kernel
  induction a using byte_induction with
  | h0 => simp only [gfMul_zero_left]
  | hx a a' ha ha' => simp only [gfMul_xor_left, ha, ha']
  | hb i hi =>
    induction b using byte_induction with
    | h0 => simp only [gfMul_zero_left, gfMul_zero_right]
    | hx b b' hb hb' => simp only [gfMul_xor_left, gfMul_xor_right, hb, hb']
    | hb j hj =>
      induction c using byte_induction with
      | h0 => simp only [gfMul_zero_right]
      | hx c c' hc hc' => simp only [gfMul_xor_right, hc, hc']
      | hb k hk => exact hbits i hi j hj k hk

theorem gfMul_one (a : Byte) : gfMul Config.hw a 1 = a := by
  simp [gfMul, gfMulLoop]

/-! ### The powers of α -/

theorem alphaPow_eq_iterate (i : Nat) : alphaPow Config.hw i = (gfMul Config.hw · 0x02)^[i] 1 := by
  induction i with
  | zero => rfl
  | succ i ih => rw [Function.iterate_succ_apply', ← ih]; rfl

theorem gfMul_alphaPow (i j : Nat) :
    gfMul Config.hw (alphaPow Config.hw i) (alphaPow Config.hw j) = alphaPow Config.hw (i + j) := by
  induction j with
  | zero => exact gfMul_one _
  | succ j ih => rw [alphaPow, ← gfMul_assoc, ih, ← Nat.add_assoc, alphaPow]

/-- The printed EXP table is 1 and its repeated products by α. -/
theorem expTable_eq_iterate : expTable = List.iterate (gfMul Config.hw · 0x02) 1 255 := by
  decide +kernel

theorem gfExp_eq_alphaPow {i : Nat} (h : i < 255) : gfExp i = alphaPow Config.hw i := by
  rw [gfExp, expTable_eq_iterate, List.getD_eq_getElem?_getD, List.getElem?_iterate _ _ _ _ h, alphaPow_eq_iterate]
  rfl

theorem gfLog_gfExp {i : Nat} (h : i < 255) : gfLog (gfExp i) = i := by
  have hall : ∀ j < 255, gfLog (gfExp j) = j := by decide +kernel
  exact hall i h

theorem gfLog_spec {a : Byte} (h : a ≠ 0) : gfLog a < 255 ∧ gfExp (gfLog a) = a := by
  have hall : ∀ b : Byte, b ≠ 0 → gfLog b < 255 ∧ gfExp (gfLog b) = b := by decide +kernel
  exact hall a h

theorem alphaPow_gfLog {a : Byte} (h : a ≠ 0) : alphaPow Config.hw (gfLog a) = a := by
  obtain ⟨hlt, hexp⟩ := gfLog_spec h
  rw [← gfExp_eq_alphaPow hlt, hexp]

theorem alphaPow_255 : alphaPow Config.hw 255 = 1 := by
  rw [alphaPow, ← gfExp_eq_alphaPow (by decide)]
  decide

theorem alphaPow_mod_255 (n : Nat) : alphaPow Config.hw (n % 255) = alphaPow Config.hw n := by
  have hperiod : Function.IsPeriodicPt (gfMul Config.hw · 0x02) 255 1 :=
    (alphaPow_eq_iterate 255).symm.trans alphaPow_255
  rw [alphaPow_eq_iterate, alphaPow_eq_iterate, hperiod.iterate_mod_apply]

/-- Settles O21: EXP is the list of the powers of α, and the two tables invert each other entry by entry. -/
theorem printedTablesArePowersOfAlpha : Obligations.PrintedTablesArePowersOfAlpha := by
  refine ⟨rfl, fun i hi => ?_, fun _ => gfLog_gfExp, fun _ => gfLog_spec⟩
  rw [gfExp_eq_alphaPow (by omega), gfExp_eq_alphaPow (by omega), alphaPow]
  rfl

/-- Settles O22: two non-zero bytes are powers of α, whose exponents add up modulo 255. -/
theorem tableMultiplicationEqualsShiftAndReduce : Obligations.TableMultiplicationEqualsShiftAndReduce := by
  refine ⟨fun a b => ?_, by decide, by decide, by decide, by decide⟩
  unfold gfMulByTables
  split_ifs with h
  · rcases h with rfl | rfl
    · exact gfMul_zero_left b
    · exact gfMul_zero_right a
  · obtain ⟨ha, hb⟩ := not_or.mp h
    calc gfMul Config.hw a b
        = gfMul Config.hw (alphaPow Config.hw (gfLog a)) (alphaPow Config.hw (gfLog b)) := by
          rw [alphaPow_gfLog ha, alphaPow_gfLog hb]
      _ = alphaPow Config.hw ((gfLog a + gfLog b) % 255) := by rw [gfMul_alphaPow, alphaPow_mod_255]
      _ = gfExp ((gfLog a + gfLog b) % 255) := (gfExp_eq_alphaPow (Nat.mod_lt _ (by decide))).symm

/-- The inverse of α^n is α^(255 - n). -/
theorem exists_gfMul_eq_one {a : Byte} (h : a ≠ 0) : ∃ b, gfMul Config.hw a b = 1 := by
  refine ⟨alphaPow Config.hw (255 - gfLog a), ?_⟩
  have hsum : gfLog a + (255 - gfLog a) = 255 := Nat.add_sub_cancel' (gfLog_spec h).1.le
  calc gfMul Config.hw a (alphaPow Config.hw (255 - gfLog a))
      = gfMul Config.hw (alphaPow Config.hw (gfLog a)) (alphaPow Config.hw (255 - gfLog a)) := by rw [alphaPow_gfLog h]
    _ = 1 := by rw [gfMul_alphaPow, hsum, alphaPow_255]

/-- Settles O23: the laws by linearity from the single bits, the inverses from the powers of α. -/
theorem fieldLaws : Obligations.FieldLaws :=
  ⟨gfMul_comm, gfMul_assoc, gfMul_xor_right, gfMul_one, fun _ => exists_gfMul_eq_one⟩

end Sys2Proof.Machine
end

section
/-! Polynomials over GF(256) as lists of coefficients: their sums, and their values at a point (spec 41_rs_encoder.md R144). -/

namespace Sys2Proof.Machine

/-! ### Sums -/

@[simp] theorem polyAdd_cons (a b : Byte) (p q : List Byte) : polyAdd (a :: p) (b :: q) = (a ^^^ b) :: polyAdd p q := rfl

@[simp] theorem length_polyAdd (p q : List Byte) : (polyAdd p q).length = min p.length q.length :=
  List.length_zipWith

theorem polyAdd_comm (p q : List Byte) : polyAdd p q = polyAdd q p :=
  List.zipWith_comm_of_comm BitVec.xor_comm

theorem polyAdd_assoc (p q r : List Byte) : polyAdd (polyAdd p q) r = polyAdd p (polyAdd q r) := by
  induction p generalizing q r with
  | nil => rfl
  | cons a p ih =>
    cases q with
    | nil => rfl
    | cons b q =>
      cases r with
      | nil => rfl
      | cons c r => simp [ih, BitVec.xor_assoc]

theorem polyAdd_add_add_comm (p q r u : List Byte) :
    polyAdd (polyAdd p q) (polyAdd r u) = polyAdd (polyAdd p r) (polyAdd q u) := by
  rw [polyAdd_assoc, ← polyAdd_assoc q, polyAdd_comm q, polyAdd_assoc r, ← polyAdd_assoc]

theorem polyAdd_replicate_zero {p : List Byte} {n : Nat} (h : p.length = n) : polyAdd p (List.replicate n 0#8) = p := by
  subst h
  induction p with
  | nil => rfl
  | cons a p ih => simp [List.replicate_succ, ih]

theorem polyAdd_self (p : List Byte) : polyAdd p p = List.replicate p.length 0#8 := by
  induction p with
  | nil => rfl
  | cons a p ih => simp [List.replicate_succ, ih]

/-- Adding a polynomial twice cancels it. -/
theorem polyAdd_polyAdd_cancel {p q : List Byte} (h : p.length = q.length) : polyAdd (polyAdd p q) q = p := by
  rw [polyAdd_assoc, polyAdd_self, polyAdd_replicate_zero h]

theorem polyAdd_append {p q : List Byte} (h : p.length = q.length) (p' q' : List Byte) :
    polyAdd (p ++ p') (q ++ q') = polyAdd p q ++ polyAdd p' q' :=
  List.zipWith_append h

theorem map_gfMul_xor (a b : Byte) (p : List Byte) :
    p.map (gfMul Config.hw (a ^^^ b)) = polyAdd (p.map (gfMul Config.hw a)) (p.map (gfMul Config.hw b)) := by
  induction p with
  | nil => rfl
  | cons c p ih => simp [gfMul_xor_left, ih]

/-! ### Values -/

theorem polyEval_append_singleton (x : Byte) (p : List Byte) (c : Byte) :
    polyEval Config.hw x (p ++ [c]) = gfMul Config.hw (polyEval Config.hw x p) x ^^^ c :=
  List.foldl_append

theorem polyEval_singleton (x c : Byte) : polyEval Config.hw x [c] = c := by
  simp [polyEval, gfMul_zero_left, gfAdd]

theorem polyEval_zero_cons (x : Byte) (p : List Byte) : polyEval Config.hw x (0#8 :: p) = polyEval Config.hw x p := by
  simp [polyEval, gfMul_zero_left, gfAdd]

theorem polyEval_replicate_zero (x : Byte) (n : Nat) : polyEval Config.hw x (List.replicate n 0#8) = 0#8 := by
  induction n with
  | zero => rfl
  | succ n ih => rw [List.replicate_succ, polyEval_zero_cons, ih]

/-- x^n, the weight of the coefficient that n others follow. -/
def gfPow (x : Byte) : Nat → Byte
  | 0 => 1
  | n + 1 => gfMul Config.hw (gfPow x n) x

theorem polyEval_append_replicate_zero (x : Byte) (p : List Byte) (n : Nat) :
    polyEval Config.hw x (p ++ List.replicate n 0#8) = gfMul Config.hw (polyEval Config.hw x p) (gfPow x n) := by
  induction n with
  | zero => rw [List.replicate_zero, List.append_nil, gfPow, gfMul_one]
  | succ n ih =>
    rw [List.replicate_succ', ← List.append_assoc, polyEval_append_singleton, ih, BitVec.xor_zero, gfPow, gfMul_assoc]

theorem polyEval_cons (x c : Byte) (p : List Byte) :
    polyEval Config.hw x (c :: p) = gfMul Config.hw c (gfPow x p.length) ^^^ polyEval Config.hw x p := by
  induction p using List.reverseRecOn with
  | nil =>
    rw [polyEval_singleton, List.length_nil, gfPow, gfMul_one]
    exact BitVec.xor_zero.symm
  | append_singleton p a ih =>
    rw [← List.cons_append, polyEval_append_singleton, polyEval_append_singleton, ih, gfMul_xor_left, List.length_append,
      List.length_singleton, gfPow, gfMul_assoc, BitVec.xor_assoc]

theorem polyEval_polyAdd (x : Byte) {p q : List Byte} (h : p.length = q.length) :
    polyEval Config.hw x (polyAdd p q) = polyEval Config.hw x p ^^^ polyEval Config.hw x q := by
  induction p generalizing q with
  | nil =>
    obtain rfl := List.length_eq_zero_iff.mp h.symm
    exact BitVec.xor_self.symm
  | cons a p ih =>
    obtain ⟨b, q, rfl⟩ := List.exists_cons_of_length_eq_add_one h.symm
    have hlen : p.length = q.length := Nat.succ.inj h
    rw [polyAdd_cons, polyEval_cons, polyEval_cons, polyEval_cons, ih hlen, length_polyAdd, ← hlen, Nat.min_self,
      gfMul_xor_left]
    ac_rfl

theorem polyEval_map_gfMul (x c : Byte) (p : List Byte) :
    polyEval Config.hw x (p.map (gfMul Config.hw c)) = gfMul Config.hw c (polyEval Config.hw x p) := by
  induction p with
  | nil => exact (gfMul_zero_right c).symm
  | cons a p ih => rw [List.map_cons, polyEval_cons, polyEval_cons, ih, List.length_map, gfMul_xor_right, gfMul_assoc]

/-! ### Products -/

theorem length_polyMul (q : List Byte) (a : Byte) (g : List Byte) :
    (polyMul Config.hw q (a :: g)).length = q.length + g.length := by
  induction q with
  | nil => simp [polyMul]
  | cons c q ih => simp [polyMul, ih]; omega

/-- The value of a product is the product of the values. -/
theorem polyEval_polyMul (x : Byte) (q : List Byte) (a : Byte) (g : List Byte) :
    polyEval Config.hw x (polyMul Config.hw q (a :: g)) =
      gfMul Config.hw (polyEval Config.hw x q) (polyEval Config.hw x (a :: g)) := by
  induction q with
  | nil => exact (polyEval_replicate_zero x _).trans (gfMul_zero_left _).symm
  | cons c q ih =>
    have hlen : ((a :: g).map (gfMul Config.hw c) ++ List.replicate q.length 0#8).length =
        (0#8 :: polyMul Config.hw q (a :: g)).length := by
      simp [length_polyMul]; omega
    have hfirst : polyEval Config.hw x ((a :: g).map (gfMul Config.hw c) ++ List.replicate q.length 0#8) =
        gfMul Config.hw (gfMul Config.hw c (gfPow x q.length)) (polyEval Config.hw x (a :: g)) := by
      rw [polyEval_append_replicate_zero, polyEval_map_gfMul, gfMul_assoc, gfMul_assoc, gfMul_comm (gfPow x _)]
    rw [polyMul, polyEval_polyAdd x hlen, hfirst, polyEval_zero_cons, ih, ← gfMul_xor_left, ← polyEval_cons]

/-- x + a is 0 at a. -/
theorem polyEval_factor (a : Byte) : polyEval Config.hw a [1, a] = 0#8 :=
  (polyEval_append_singleton a [1] a).trans (by rw [polyEval_singleton, gfMul_comm, gfMul_one, BitVec.xor_self])

/-- The product of the factors x + α^i is 0 at each of its roots. -/
theorem polyEval_rootProduct {e j : Nat} (h : j < e) :
    polyEval Config.hw (alphaPow Config.hw j) (rootProduct Config.hw e) = 0#8 := by
  induction e with
  | zero => omega
  | succ e ih =>
    rw [rootProduct, show Config.hw.genB + e = e from Nat.zero_add e, polyEval_polyMul]
    rcases Nat.lt_succ_iff_lt_or_eq.mp h with hj | rfl
    · rw [ih hj, gfMul_zero_left]
    · rw [polyEval_factor, gfMul_zero_right]

end Sys2Proof.Machine
end

section
/-! The division circuit: linearity, corner cases, and what it computes (spec 41_rs_encoder.md R144 to R148). -/

namespace Sys2Proof.Machine

/-! ### One step of the shift register -/

/-- The shift, plus the multiple of the generator that the feedback selects. -/
theorem shiftRegisterStep_eq (gen rem : List Byte) (d : Byte) :
    shiftRegisterStep Config.hw gen rem d =
      polyAdd (rem.tail ++ [0#8]) (gen.map (gfMul Config.hw (d ^^^ rem.headD 0#8))) :=
  List.zipWith_map_right.symm

theorem headD_polyAdd {p q : List Byte} (h : p.length = q.length) :
    (polyAdd p q).headD 0#8 = p.headD 0#8 ^^^ q.headD 0#8 := by
  cases p with
  | nil =>
    obtain rfl := List.length_eq_zero_iff.mp h.symm
    rfl
  | cons a p =>
    obtain ⟨b, q, rfl⟩ := List.exists_cons_of_length_eq_add_one h.symm
    rfl

theorem shiftRegisterStep_polyAdd (gen : List Byte) {rem rem' : List Byte} (h : rem.length = rem'.length) (d d' : Byte) :
    shiftRegisterStep Config.hw gen (polyAdd rem rem') (d ^^^ d') =
      polyAdd (shiftRegisterStep Config.hw gen rem d) (shiftRegisterStep Config.hw gen rem' d') := by
  have hshift : (polyAdd rem rem').tail ++ [0#8] = polyAdd (rem.tail ++ [0#8]) (rem'.tail ++ [0#8]) := by
    rw [polyAdd_append (by simp [h]), polyAdd, List.tail_zipWith]
    rfl
  have hfeedback : d ^^^ d' ^^^ (polyAdd rem rem').headD 0#8 = d ^^^ rem.headD 0#8 ^^^ (d' ^^^ rem'.headD 0#8) := by
    rw [headD_polyAdd h]
    ac_rfl
  rw [shiftRegisterStep_eq, shiftRegisterStep_eq, shiftRegisterStep_eq, hshift, hfeedback, map_gfMul_xor,
    polyAdd_add_add_comm]

/-- The cleared register takes the data byte's multiple of the generator. -/
theorem shiftRegisterStep_cleared {gen : List Byte} {e : Nat} (he : 0 < e) (hgen : gen.length = e) (d : Byte) :
    shiftRegisterStep Config.hw gen (List.replicate e 0#8) d = gen.map (gfMul Config.hw d) := by
  obtain ⟨n, rfl⟩ := Nat.exists_eq_add_one.mpr he
  rw [shiftRegisterStep_eq, List.replicate_succ, List.headD_cons, BitVec.xor_zero, List.tail_cons, ← List.replicate_succ',
    polyAdd_comm, polyAdd_replicate_zero (by simpa using hgen)]

/-! ### Linearity and corner cases -/

theorem foldl_shiftRegisterStep_polyAdd {gen : List Byte} (hgen : 0 < gen.length) {ds ds' : List Byte}
    (h : ds.length = ds'.length) {rem rem' : List Byte} (hrem : rem.length = gen.length) (hrem' : rem'.length = gen.length) :
    (polyAdd ds ds').foldl (shiftRegisterStep Config.hw gen) (polyAdd rem rem') =
      polyAdd (ds.foldl (shiftRegisterStep Config.hw gen) rem) (ds'.foldl (shiftRegisterStep Config.hw gen) rem') := by
  induction ds generalizing ds' rem rem' with
  | nil =>
    obtain rfl := List.length_eq_zero_iff.mp h.symm
    rfl
  | cons d ds ih =>
    obtain ⟨d', ds', rfl⟩ := List.exists_cons_of_length_eq_add_one h.symm
    rw [polyAdd_cons, List.foldl_cons, shiftRegisterStep_polyAdd gen (hrem.trans hrem'.symm)]
    exact ih (Nat.succ.inj h) (length_shiftRegisterStep _ _ _ _ hrem hgen) (length_shiftRegisterStep _ _ _ _ hrem' hgen)

theorem eccLength_pos : ∀ {e : Nat}, e ∈ [7, 10, 15, 20] → 0 < e := by
  decide

/-- Settles O18: the division is linear from the cleared register, which is its own sum with itself. -/
theorem eccIsLinear : Obligations.EccIsLinear := by
  intro d d' e he h
  have hlen := length_generatorRom e he
  have hclear : (List.replicate e 0#8).length = (generatorRom Config.hw e).length := by simp [hlen]
  have hlinear := foldl_shiftRegisterStep_polyAdd ((eccLength_pos he).trans_eq hlen.symm) h hclear hclear
  rwa [polyAdd_replicate_zero (by simp)] at hlinear

/-- Zero bytes leave the cleared register cleared. -/
theorem rsRemainder_replicate_zero_append {e : Nat} (he : e ∈ [7, 10, 15, 20]) (k : Nat) (d : List Byte) :
    rsRemainder Config.hw (List.replicate k 0#8 ++ d) e = rsRemainder Config.hw d e := by
  have hgen := length_generatorRom e he
  have hstep : shiftRegisterStep Config.hw (generatorRom Config.hw e) (List.replicate e 0#8) 0#8 = List.replicate e 0#8 := by
    rw [shiftRegisterStep_cleared (eccLength_pos he) hgen, funext gfMul_zero_left, List.map_const', hgen]
  induction k with
  | zero => rfl
  | succ k ih =>
    rw [← ih, rsRemainder, List.replicate_succ, List.cons_append, List.foldl_cons, hstep]
    rfl

/-- Settles O19: the cleared register stays cleared over zero bytes, and the byte 1 loads the generator. -/
theorem eccCornerCases : Obligations.EccCornerCases := by
  refine fun e he => ⟨rfl, fun k => ?_, fun k d => rsRemainder_replicate_zero_append he k d, ?_⟩
  · have hzeros := rsRemainder_replicate_zero_append he k []
    rwa [List.append_nil] at hzeros
  · have hone : gfMul Config.hw 1 = id := funext fun a => (gfMul_comm 1 a).trans (gfMul_one a)
    have hstep := shiftRegisterStep_cleared (eccLength_pos he) (length_generatorRom e he) 1
    rwa [hone, List.map_id] at hstep

/-! ### The remainder -/

/-- The register's contents, data bytes behind them, and the register after the data differ by a multiple of the generator:
the feedback bytes are the quotient. -/
theorem exists_quotient {gen : List Byte} (hgen : 0 < gen.length) (ds : List Byte) {rem : List Byte}
    (hrem : rem.length = gen.length) :
    ∃ q : List Byte, q.length = ds.length ∧
      polyMul Config.hw q (1 :: gen) =
        polyAdd (rem ++ List.replicate ds.length 0#8) (ds ++ ds.foldl (shiftRegisterStep Config.hw gen) rem) := by
  induction ds generalizing rem with
  | nil => exact ⟨[], rfl, by simp [polyMul, polyAdd_self, hrem]⟩
  | cons d ds ih =>
    have hstep := length_shiftRegisterStep Config.hw gen rem d hrem hgen
    obtain ⟨q, hq, hmul⟩ := ih hstep
    obtain ⟨x, rem, rfl⟩ := List.exists_cons_of_length_pos (hrem ▸ hgen)
    have hlen : (rem ++ [0#8]).length = (gen.map (gfMul Config.hw (d ^^^ x))).length := by simpa using hrem
    have htaps : polyAdd (gen.map (gfMul Config.hw (d ^^^ x)) ++ List.replicate ds.length 0#8)
        (shiftRegisterStep Config.hw gen (x :: rem) d ++ List.replicate ds.length 0#8) =
          rem ++ [0#8] ++ List.replicate ds.length 0#8 := by
      rw [polyAdd_append (by rw [hstep, List.length_map]), polyAdd_self, List.length_replicate, shiftRegisterStep_eq,
        polyAdd_comm, List.tail_cons, List.headD_cons, polyAdd_polyAdd_cancel hlen]
    refine ⟨(d ^^^ x) :: q, by simp [hq], ?_⟩
    rw [polyMul, List.map_cons, gfMul_one, hq, hmul, List.cons_append, polyAdd_cons, ← polyAdd_assoc, htaps]
    simp [List.replicate_succ, BitVec.xor_comm]

/-- Settles O16: the quotient from the cleared register, which adds nothing. -/
theorem divisionCircuitComputesThePolynomialRemainder : Obligations.DivisionCircuitComputesThePolynomialRemainder := by
  intro data e he
  have hgen := length_generatorRom e he
  have hlen := length_rsRemainder data e he
  obtain ⟨q, hq, hmul⟩ := exists_quotient ((eccLength_pos he).trans_eq hgen.symm) data (rem := List.replicate e 0#8)
    (by simp [hgen])
  refine ⟨hlen, q, hq, hmul.trans ?_⟩
  rw [List.replicate_append_replicate, polyAdd_comm]
  exact polyAdd_replicate_zero (by rw [List.length_append, ← rsRemainder, hlen, Nat.add_comm])

end Sys2Proof.Machine
end

section
/-! The generator ROM, and RSENC over it (spec 41_rs_encoder.md R144, R145, R148). -/

namespace Sys2Proof.Machine

/-- Settles O20: the product is computed for each E of the list, and the ROM is its tail. -/
theorem generatorRomIsTheProductOfRoots : Obligations.GeneratorRomIsTheProductOfRoots := by
  have hproduct : ∀ e ∈ [7, 10, 15, 20], rootProduct Config.hw e = 1 :: printedRom e := by decide +kernel
  refine fun e he => ⟨?_, hproduct e he⟩
  rw [generatorRom, if_pos ((eccLengthLegal_iff e).mpr he), hproduct e he, List.tail_cons]

theorem rootProduct_eq_cons_generatorRom {e : Nat} (he : e ∈ [7, 10, 15, 20]) :
    rootProduct Config.hw e = 1 :: generatorRom Config.hw e := by
  obtain ⟨hrom, hproduct⟩ := generatorRomIsTheProductOfRoots e he
  rw [hproduct, hrom]

/-- Data followed by its remainder is a multiple of the generator, which is 0 at its roots. -/
theorem polyEval_append_rsRemainder (data : List Byte) {e j : Nat} (he : e ∈ [7, 10, 15, 20]) (hj : j < e) :
    polyEval Config.hw (alphaPow Config.hw j) (data ++ rsRemainder Config.hw data e) = 0#8 := by
  obtain ⟨-, q, -, hmul⟩ := divisionCircuitComputesThePolynomialRemainder data e he
  rw [← hmul, polyEval_polyMul, ← rootProduct_eq_cons_generatorRom he, polyEval_rootProduct hj, gfMul_zero_right]

/-! ### The command -/

theorem exec_rsenc {k e : Nat} (he : e ∈ [7, 10, 15, 20]) (hk : k + e ≤ 100) (s : State) :
    exec (.rsenc k e) s = .next (complete .ok (recordEcc k (eccOf s.cw k e) s)) := by
  refine (execRsenc_eq k e s).trans (congrArg Host.Outcome.next ?_)
  rw [if_neg (not_not_intro he), if_neg (Nat.not_lt.mpr hk)]

/-- Settles O15: the stored bytes stand from CW[K] and REM[0] on (`bufferGet_store`). -/
theorem rsencStoresTheEccCodewords : Obligations.RsencStoresTheEccCodewords := by
  intro k e s he hk
  have hlen : (eccOf s.cw k e).length = e := length_rsRemainder _ e he
  refine ⟨_, exec_rsenc he hk s, fun i hi => ?_, fun j _ hj => ?_, fun i hi => ?_, ?_⟩
  · have h := bufferGet_store (eccOf s.cw k e) s.cw k (k + i) (by rw [cwCap_hw]; omega)
    rwa [if_pos (by omega), Nat.add_sub_cancel_left] at h
  · exact bufferGet_store_outside _ _ _ _ (by rwa [hlen])
  · have h := bufferGet_store (eccOf s.cw k e) s.rem 0 i hi
    rwa [hlen, Nat.zero_add, Nat.sub_zero, if_congr (by omega : 0 ≤ i ∧ i < e ↔ i < e) rfl rfl] at h
  · rw [complete_ok_eq]
    rfl

/-- The entries up to the end of the stored bytes. -/
theorem bufferTake_store {n : Nat} (v : Vector Byte n) (k : Nat) (bs : List Byte) (h : k + bs.length ≤ n) :
    bufferTake (bufferStore v k bs) (k + bs.length) = bufferTake v k ++ bs := by
  rw [bufferTake, List.range_add, List.map_append]
  congr 1
  · exact List.map_congr_left fun i hi => bufferGet_store_outside _ _ _ _ (.inl (List.mem_range.mp hi))
  · refine List.ext_getElem (by simp) fun i _ hi => ?_
    simp [bufferGet_store bs v k (k + i) (by omega), hi]

/-- Settles O17: the codewords are the data followed by its remainder. -/
theorem encodedCodewordsVanishAtTheRoots : Obligations.EncodedCodewordsVanishAtTheRoots := by
  intro k e s he hk
  have hlen : (eccOf s.cw k e).length = e := length_rsRemainder _ e he
  have hcodewords := bufferTake_store s.cw k (eccOf s.cw k e) (by rwa [hlen])
  rw [hlen] at hcodewords
  refine ⟨_, exec_rsenc he hk s, fun j hj => ?_⟩
  rw [complete_cw, recordEcc_cw, hcodewords]
  exact polyEval_append_rsRemainder _ he hj

end Sys2Proof.Machine
end

section
/-! The placer's stream and masks (spec 42_bit_placer.md R170 to R173). -/

namespace Sys2Proof.Machine

/-! ### The stream -/

/-- Stream bits 8·i to 8·i + 7 are those of codeword i, from bit 7 down. -/
theorem streamBit_of_byte {entries : Nat} (cw : Vector Byte entries) (i : Nat) {k : Nat} (hk : k < 8) :
    streamBit cw (8 * i + k) = (bufferGet cw i).getLsbD (7 - k) := by
  rw [streamBit, show (8 * i + k) / 8 = i by omega, show (8 * i + k) % 8 = k by omega]

/-- The stream of L codewords, by induction on L: one more codeword adds its eight bits at the end. -/
theorem map_streamBit_range {entries : Nat} (cw : Vector Byte entries) (l : Nat) :
    (List.range (8 * l)).map (streamBit cw) =
      (bufferTake cw l).flatMap fun b => (List.range 8).map fun k => b.getLsbD (7 - k) := by
  induction l with
  | zero => rfl
  | succ l ih =>
    have hbyte : (List.range 8).map (fun k => streamBit cw (8 * l + k)) =
        (List.range 8).map fun k => (bufferGet cw l).getLsbD (7 - k) :=
      List.map_congr_left fun k hk => streamBit_of_byte cw l (List.mem_range.mp hk)
    have htake : bufferTake cw (l + 1) = bufferTake cw l ++ [bufferGet cw l] := by
      simp [bufferTake, List.range_succ]
    rw [Nat.mul_succ, List.range_add, List.map_append, List.map_map, ih, htake, List.flatMap_append, List.flatMap_singleton]
    exact congrArg _ hbyte

/-- Settles O24: the bound on L keeps the reads inside the buffer, and the bits' order does not need it. -/
theorem streamIsMostSignificantBitFirst : Obligations.StreamIsMostSignificantBitFirst :=
  fun cw l _ => map_streamBit_range cw l

/-! ### The masks -/

/-- A mask field of 8 or more selects no formula (R170). -/
theorem maskOn_of_le {mask : Nat} (h : 8 ≤ mask) (r c : Nat) : maskOn mask r c = false := by
  obtain ⟨n, rfl⟩ := Nat.exists_eq_add_of_le' h
  rfl

/-- Settles O25: the pictures are computed, and each formula is the model's own comparison with 0. -/
theorem maskPictures : Obligations.MaskPictures := by
  refine ⟨by decide, by decide, by decide, by decide, by decide, by decide, by decide, by decide, fun row col => ?_,
    fun _ r c h => maskOn_of_le h r c⟩
  simp only [maskOn, beq_iff_eq, and_self]

end Sys2Proof.Machine
end

section
/-! The walk's cells and their order (spec 42_bit_placer.md R174 to R176, R180). -/

namespace Sys2Proof.Machine

/-! ### Which cells -/

/-- An odd side of 7 or more has an even number of columns beside column 6, and the strips take all of them. -/
theorem mem_walk_iff {side : Nat} (hodd : side % 2 = 1) (h7 : 7 ≤ side) (r c : Nat) :
    (r, c) ∈ walk side ↔ r < side ∧ c < side ∧ c ≠ 6 := by
  rw [mem_walk]
  refine and_congr_right fun _ => ⟨?_, ?_⟩
  · rintro ⟨t, ht, hc⟩
    rw [mem_stripNumbers] at ht
    unfold stripRightColumn at hc
    split_ifs at hc <;> omega
  · rintro ⟨hc, h6⟩
    refine ⟨if 6 < c then (side + 1 - c) / 2 else (side - c) / 2, ?_⟩
    rw [mem_stripNumbers]
    unfold stripRightColumn
    split_ifs <;> omega

theorem mem_walk_sideLength (ver r c : Nat) :
    (r, c) ∈ walk (sideLength ver) ↔ r < sideLength ver ∧ c < sideLength ver ∧ c ≠ 6 :=
  mem_walk_iff (by unfold sideLength; omega) (by unfold sideLength; omega) r c

theorem length_walk_sideLength (ver : Nat) : (walk (sideLength ver)).length = sideLength ver * (sideLength ver - 1) := by
  have hhalf : (sideLength ver - 1) / 2 * 2 = sideLength ver - 1 := by unfold sideLength; omega
  rw [length_walk, ← Nat.mul_assoc, hhalf, Nat.mul_comm]

/-! ### In which order -/

/-- In blocks of n elements each, element n·i + k of the whole is element k of block i. -/
theorem getElem?_flatMap_of_blocks {α β : Type} {xs : List α} {f : α → List β} {n i k : Nat} {x : α}
    (hlen : ∀ y ∈ xs, (f y).length = n) (hx : xs[i]? = some x) (hk : k < n) :
    (xs.flatMap f)[n * i + k]? = (f x)[k]? := by
  induction xs generalizing i with
  | nil => simp at hx
  | cons y ys ih =>
    have hy : (f y).length = n := hlen y List.mem_cons_self
    rw [List.flatMap_cons]
    cases i with
    | zero =>
      obtain rfl : y = x := by simpa using hx
      rw [Nat.mul_zero, Nat.zero_add, List.getElem?_append_left (by omega)]
    | succ i =>
      rw [List.getElem?_append_right (by rw [hy, Nat.mul_succ]; omega), hy,
        show n * (i + 1) + k - n = n * i + k by rw [Nat.mul_succ]; omega]
      exact ih (fun z hz => hlen z (List.mem_cons_of_mem y hz)) (by simpa using hx)

theorem getElem?_stripNumbers {side t : Nat} (h1 : 1 ≤ t) (h2 : t ≤ (side - 1) / 2) :
    (stripNumbers side)[t - 1]? = some t := by
  rw [stripNumbers, List.getElem?_map, List.getElem?_range (by omega)]
  exact congrArg some (Nat.sub_add_cancel h1)

theorem getElem?_stripRows {side k : Nat} (t : Nat) (hk : k < side) :
    (stripRows side t)[k]? = some (if t % 2 = 1 then side - 1 - k else k) := by
  unfold stripRows
  split_ifs
  · rw [List.getElem?_reverse (by simpa using hk), List.length_range, List.getElem?_range (by omega)]
  · exact List.getElem?_range hk

/-- Position 2·S·(t-1) + 2·k is the right column of strip t in the k-th row of its direction, and the next is the left one (R176). -/
theorem getElem?_walk {side t k i : Nat} (h1 : 1 ≤ t) (h2 : t ≤ (side - 1) / 2) (hk : k < side) (hi : i < 2) :
    (walk side)[2 * side * (t - 1) + 2 * k + i]? =
      some (if t % 2 = 1 then side - 1 - k else k, stripRightColumn side t - i) := by
  rw [Nat.add_assoc, walk,
    getElem?_flatMap_of_blocks (fun u _ => length_stripWalk side u) (getElem?_stripNumbers h1 h2) (by omega), stripWalk,
    getElem?_flatMap_of_blocks (n := 2) (fun _ _ => rfl) (getElem?_stripRows t hk) hi]
  obtain rfl | rfl : i = 0 ∨ i = 1 := by omega
  · rfl
  · rfl

/-- Settles O26: the strips cover every column but 6, one after the other, and a position splits into strip, row and side. -/
theorem walkVisitsEachFreeColumnCellOnce : Obligations.WalkVisitsEachFreeColumnCellOnce := by
  intro ver _
  refine ⟨length_walk_sideLength ver, nodup_walk_side _, mem_walk_sideLength ver, fun t k h1 h2 hk => ⟨?_, ?_⟩⟩
  · exact getElem?_walk h1 h2 hk (by decide : 0 < 2)
  · exact getElem?_walk h1 h2 hk (by decide : 1 < 2)

end Sys2Proof.Machine
end

section
/-! What PLACE leaves in the grid (spec 42_bit_placer.md R177 to R183). -/

namespace Sys2Proof.Machine

/-! ### The cells after a walk -/

/-- The cell at walk position j: painted with its place among the data modules, or kept (R177). -/
theorem cellAt_placeAll {entries : Nat} (cw : Vector Byte entries) (mask l : Nat) (m : Memory) {side : Nat} (hside : side ≤ 33)
    {j : Nat} (hj : j < (walk side).length) :
    cellAt (placeAll Config.hw cw mask l m side).mem (walk side)[j].1 (walk side)[j].2 =
      if cellAt m (walk side)[j].1 (walk side)[j].2 = .unassigned then
        paintColour cw mask l (freeModules m ((walk side).take j)) (walk side)[j].1 (walk side)[j].2
      else cellAt m (walk side)[j].1 (walk side)[j].2 := by
  have hstart : Counted l ⟨m, 0, 0⟩ 0 := by simp [Counted]
  obtain ⟨-, -, hcell⟩ := placeFold_spec cw mask l (walk side) (walk_addresses_differ hside) ⟨m, 0, 0⟩ 0 hstart
  simpa only [placeAll, Nat.zero_add] using hcell j hj

theorem paintColour_ne {entries : Nat} (cw : Vector Byte entries) (mask l n r c : Nat) :
    paintColour cw mask l n r c ≠ .unassigned := by
  unfold paintColour
  split <;> decide

/-- No cell of the walk is left UNASSIGNED (R181). -/
theorem cellAt_placeAll_ne {entries : Nat} (cw : Vector Byte entries) (mask l : Nat) (m : Memory) {side : Nat} (hside : side ≤ 33)
    {pos : Nat × Nat} (hpos : pos ∈ walk side) :
    cellAt (placeAll Config.hw cw mask l m side).mem pos.1 pos.2 ≠ .unassigned := by
  obtain ⟨j, hj, rfl⟩ := List.getElem_of_mem hpos
  rw [cellAt_placeAll cw mask l m hside hj]
  split
  · exact paintColour_ne _ _ _ _ _ _
  · assumption

/-- A walk without data modules does nothing. -/
theorem placeAll_of_assigned {entries : Nat} (cw : Vector Byte entries) (mask l : Nat) {m : Memory} {side : Nat}
    (h : ∀ pos ∈ walk side, cellAt m pos.1 pos.2 ≠ .unassigned) :
    placeAll Config.hw cw mask l m side = ⟨m, 0, 0⟩ := by
  unfold placeAll
  refine List.foldlRecOn (motive := fun p : Placing => p = ⟨m, 0, 0⟩) (walk side) _ rfl ?_
  rintro _ rfl pos hpos
  exact placeCell_assigned cw mask l _ pos (h pos hpos)

/-! ### The command -/

theorem exec_place {ver l : Nat} (hver : ver ∈ [1, 2, 3, 4]) (hl : l ≤ 100) (mask : Nat) (s : State) :
    exec (.place ver mask l) s = .next (complete .ok (
      let p := placeAll Config.hw s.cw mask l s.mem (sideLength ver)
      recordPlace p.mem p.used p.defaulted s)) := by
  refine (execPlace_eq ver mask l s).trans (congrArg Host.Outcome.next ?_)
  rw [if_neg (not_not_intro hver), if_neg (Nat.not_lt.mpr hl)]

/-- Settles O27: the cells are `cellAt_placeAll`, the frame of the memory is `execPlace_frame`, and 32 bits hold both counters. -/
theorem placePaintsTheDataModulesInWalkOrder : Obligations.PlacePaintsTheDataModulesInWalkOrder := by
  intro ver mask l s hver hl
  have hside := (sideLength_bounds hver).2
  have hfree := freeModules_walk_le s.mem hside
  obtain ⟨hused, hdefaulted⟩ := placeAll_counted s.cw mask l s.mem hside
  have hexec := exec_place hver hl mask s
  refine ⟨_, hexec, fun j hj => cellAt_placeAll s.cw mask l s.mem hside hj, (execPlace_frame hexec).2, ?_, ?_, ?_⟩
  · rw [complete_placeConsumed, recordPlace_placeConsumed, BitVec.toNat_ofNat, hused]
    omega
  · rw [complete_placeDefaulted, recordPlace_placeDefaulted, BitVec.toNat_ofNat, hdefaulted]
    omega
  · rw [complete_ok_eq]
    rfl

/-! ### What a PLACE keeps -/

/-- A cell is kept when no UNASSIGNED cell of the walk has its address, whether the PLACE succeeds or fails. -/
theorem cellAt_of_exec_place {ver mask l r c : Nat} {s t : State} (h : exec (.place ver mask l) s = .next t)
    (hcell : ∀ pos ∈ walk (sideLength ver), cellAt s.mem pos.1 pos.2 = .unassigned → cellAddr r c ≠ cellAddr pos.1 pos.2) :
    cellAt t.mem r c = cellAt s.mem r c :=
  cellAt_congr ((execPlace_frame h).2 _ hcell)

/-- Settles O29: a LIGHT or DARK cell shares its address with no UNASSIGNED one, and every cell outside column 6 is on the walk. -/
theorem placeKeepsStructuralModules : Obligations.PlaceKeepsStructuralModules := by
  intro ver mask l s t h
  refine ⟨fun r c _ _ hassigned => cellAt_of_exec_place h fun pos _ hfree haddr => hassigned ?_, fun herr r c hr hc h6 => ?_⟩
  · rwa [cellAt, haddr]
  · obtain ⟨hver, -, rfl⟩ := execPlace_ok h herr
    have hmem : (r, c) ∈ walk (sideLength ver) := (mem_walk_sideLength ver r c).mpr ⟨hr, hc, h6⟩
    exact cellAt_placeAll_ne (pos := (r, c)) s.cw mask l s.mem (sideLength_bounds hver).2 hmem

/-- A cell off the walk is kept (R180). -/
theorem cellAt_of_not_mem_walk {ver mask l r c : Nat} {s t : State} (hver : ver ∈ [1, 2, 3, 4])
    (h : exec (.place ver mask l) s = .next t) (hc : c < 33) (hoff : (r, c) ∉ walk (sideLength ver)) :
    cellAt t.mem r c = cellAt s.mem r c := by
  refine cellAt_of_exec_place h fun pos hpos _ haddr => hoff ?_
  have hside := (sideLength_bounds hver).2
  have hcolumn := (lt_side_of_mem_walk hpos).2
  obtain ⟨rfl, rfl⟩ := cellAddr_inj hc (by omega) haddr
  exact hpos

/-- A SCORE of a corner with an UNASSIGNED cell completes with ERR_UNASSIGNED (43_penalty_scorer.md R200). -/
theorem exec_score_unassigned {ver r c : Nat} {s : State} (hver : ver ∈ [1, 2, 3, 4]) (hr : r < sideLength ver)
    (hc : c < sideLength ver) (hcell : cellAt s.mem r c = .unassigned) (mask : Nat) :
    exec (.score ver mask) s = .next (complete .unassigned s) := by
  have hunfinished : cornerFinished (corner s.mem (sideLength ver)) = false :=
    Bool.eq_false_iff.mpr fun hfinished => (cornerFinished_iff _ _).mp hfinished r hr c hc hcell
  refine (execScore_eq ver mask s).trans (congrArg Host.Outcome.next ?_)
  rw [if_neg (not_not_intro hver), if_pos hunfinished]

/-- Settles O30: no cell of column 6 and none outside the corner is on the walk. -/
theorem placeNeverReachesColumnSix : Obligations.PlaceNeverReachesColumnSix := by
  intro ver mask l s t hver h
  have hkept : ∀ r c, c < 33 → c = 6 ∨ sideLength ver ≤ r ∨ sideLength ver ≤ c → cellAt t.mem r c = cellAt s.mem r c := by
    intro r c hc hoff
    refine cellAt_of_not_mem_walk hver h hc fun hmem => ?_
    obtain ⟨hr, hc', h6⟩ := (mem_walk_sideLength ver r c).mp hmem
    omega
  refine ⟨fun r c _ hc hoff => hkept r c hc hoff, fun r m hr hfree => ?_⟩
  have h6 : 6 < sideLength ver := by unfold sideLength; omega
  exact ⟨_, exec_score_unassigned hver hr h6 ((hkept r 6 (by decide) (.inl rfl)).trans hfree) m, rfl⟩

/-! ### Colours without a mask, and a second PLACE -/

/-- Where no mask applies, a data module shows its stream bit, or LIGHT past the stream (R183). -/
theorem paintColour_unmasked {entries : Nat} (cw : Vector Byte entries) {mask : Nat} (hmask : 8 ≤ mask) (l n r c : Nat) :
    paintColour cw mask l n r c = if n < 8 * l ∧ streamBit cw n = true then .dark else .light := by
  simp [paintColour, maskOn_of_le hmask]

/-- Settles O31: a mask field of 8 to 15 inverts nothing (`maskOn_of_le`). -/
theorem unmaskedPlaceShowsTheStream : Obligations.UnmaskedPlaceShowsTheStream := by
  intro ver mask l s t hmask _ h herr j hj r c n hfree
  obtain ⟨hver, -, rfl⟩ := execPlace_ok h herr
  have hcell := cellAt_placeAll s.cw mask l s.mem (sideLength_bounds hver).2 hj
  rw [if_pos hfree, paintColour_unmasked s.cw hmask] at hcell
  rw [complete_mem, recordPlace_mem, hcell]
  refine ⟨fun hn => ?_, fun hn => if_neg fun hbit => absurd hbit.1 (Nat.not_lt.mpr hn)⟩
  cases hbit : streamBit s.cw n <;> simp [n, hn]

/-- Settles O32: after a good PLACE the walk holds no data module, so that a second one does nothing (`placeAll_of_assigned`). -/
theorem secondPlaceChangesNoCell : Obligations.SecondPlaceChangesNoCell := by
  intro ver mask l mask' l' s t h herr hl'
  obtain ⟨hver, -, ht⟩ := execPlace_ok h herr
  have hassigned : ∀ pos ∈ walk (sideLength ver), cellAt t.mem pos.1 pos.2 ≠ .unassigned := by
    rw [ht]
    exact fun pos => cellAt_placeAll_ne s.cw mask l s.mem (sideLength_bounds hver).2
  rw [exec_place hver hl', placeAll_of_assigned t.cw mask' l' hassigned, complete_ok_eq]
  rfl

end Sys2Proof.Machine
end

section
/-! One line of the grid: its maximal runs, and the matches of a pattern in it (spec 43_penalty_scorer.md R201, R204). -/

namespace Sys2Proof.Machine

/-! ### Rule 1 -/

/-- The points of one maximal run of rule 1 (R201). -/
def runPoints (len : Nat) : Nat := if 5 ≤ len then len - 2 else 0

/-- A further module of a run brings the points paid so far up to those of the longer run. -/
theorem runPoints_succ (p run : Nat) :
    (if run + 1 = 5 then p + runPoints run + 3 else if 5 < run + 1 then p + runPoints run + 1 else p + runPoints run) =
      p + runPoints (run + 1) := by
  unfold runPoints
  split_ifs <;> omega

/-- The scan inside a run whose points so far are paid: it pays for the rest of this run and for the runs that follow. -/
theorem runPenaltyFrom_eq (prev : Bool) (run p : Nat) (xs : List Bool) :
    runPenaltyFrom prev run (p + runPoints run) xs = p + ((maximalRunsFrom prev run xs).map runPoints).sum := by
  induction xs generalizing prev run p with
  | nil => simp [runPenaltyFrom, maximalRunsFrom]
  | cons x xs ih =>
    rw [runPenaltyFrom, maximalRunsFrom]
    split
    · next hx => rw [runPoints_succ, ih, hx]
    · rw [List.map_cons, List.sum_cons, ← Nat.add_assoc]
      exact ih x 1 (p + runPoints run)

/-- Settles O35: `runPenaltyFrom_eq` from the first module of the line on, whose run has no points yet. -/
theorem runPenaltyIsSumOverMaximalRuns : Obligations.RunPenaltyIsSumOverMaximalRuns := by
  intro line
  cases line with
  | nil => rfl
  | cons x xs => exact (runPenaltyFrom_eq x 1 0 xs).trans (Nat.zero_add _)

/-! ### Windows -/

/-- The window count by the pattern's place at the front of the line. -/
theorem occurrences_cons (pattern : List Bool) (y : Bool) (ys : List Bool) :
    occurrences pattern (y :: ys) = (if pattern <+: y :: ys then 1 else 0) + occurrences pattern ys := by
  simp only [occurrences, List.prefix_iff_eq_take, eq_comm]

/-- One module more adds a window exactly when the pattern ends the longer line. -/
theorem occurrences_concat {pattern : List Bool} (hpattern : pattern ≠ []) (w : List Bool) (b : Bool) :
    occurrences pattern (w ++ [b]) = occurrences pattern w + if pattern <:+ w ++ [b] then 1 else 0 := by
  induction w with
  | nil =>
    have hiff : pattern <+: [b] ↔ pattern <:+ [b] := by
      simp [List.prefix_cons_iff, List.suffix_cons_iff, hpattern]
    simp [occurrences_cons, occurrences, hiff]
  | cons y w ih =>
    have hprefix : pattern <+: y :: w ++ [b] ↔ pattern = y :: w ++ [b] ∨ pattern <+: y :: w := List.prefix_concat_iff
    have hsuffix : pattern <:+ y :: w ++ [b] ↔ pattern = y :: w ++ [b] ∨ pattern <:+ w ++ [b] := List.suffix_cons_iff
    have hlong : pattern = y :: w ++ [b] → ¬ pattern <+: y :: w ∧ ¬ pattern <:+ w ++ [b] := by
      rintro rfl
      refine ⟨fun h => ?_, fun h => ?_⟩ <;> simpa using h.length_le
    rw [List.cons_append, occurrences_cons, ih, occurrences_cons, ← List.cons_append]
    by_cases hwhole : pattern = y :: w ++ [b]
    · obtain ⟨hp, hs⟩ := hlong hwhole
      rw [if_pos (hprefix.mpr (.inl hwhole)), if_pos (hsuffix.mpr (.inl hwhole)), if_neg hp, if_neg hs]
      omega
    · simp only [hprefix, hsuffix, hwhole, false_or]
      omega

/-! ### The matching automaton -/

/-- The automaton's state after the input w: how many of the pattern's first modules end w, at most (R204). -/
def longestBorder (pattern w : List Bool) : Nat := Nat.findGreatest (fun j => pattern.take j <:+ w) pattern.length

theorem find?_reverse_range (P : Nat → Bool) (n : Nat) :
    ((List.range (n + 1)).reverse.find? P).getD 0 = Nat.findGreatest (fun j => P j = true) n := by
  induction n with
  | zero => cases h : P 0 <;> simp [List.find?, h]
  | succ n ih =>
    rw [List.range_succ, List.reverse_append, List.reverse_singleton, List.singleton_append, List.find?_cons, Nat.findGreatest_succ]
    cases h : P (n + 1)
    · simpa using ih
    · simp

theorem matcherNext_eq_longestBorder (pattern : List Bool) (q : Nat) (b : Bool) :
    matcherNext pattern q b = longestBorder pattern (pattern.take q ++ [b]) := by
  simp only [matcherNext, find?_reverse_range, List.isSuffixOf_iff_suffix, longestBorder]

theorem take_longestBorder_suffix (pattern w : List Bool) : pattern.take (longestBorder pattern w) <:+ w :=
  Nat.findGreatest_spec (P := fun j => pattern.take j <:+ w) (Nat.zero_le _) (by simp)

/-- First modules of the pattern that end w also end the longest such, which is why the automaton may forget w. -/
theorem suffix_take_longestBorder {pattern w u : List Bool} (hu : u <+: pattern) (h : u <:+ w) :
    u <:+ pattern.take (longestBorder pattern w) := by
  have htake := List.prefix_iff_eq_take.mp hu
  have hle : u.length ≤ longestBorder pattern w := Nat.le_findGreatest hu.length_le (htake ▸ h)
  refine List.suffix_of_suffix_length_le h (take_longestBorder_suffix pattern w) ?_
  rw [List.length_take]
  exact le_min hle hu.length_le

theorem suffix_concat_longestBorder_iff {pattern w u : List Bool} (hu : u <+: pattern) (b : Bool) :
    u <:+ pattern.take (longestBorder pattern w) ++ [b] ↔ u <:+ w ++ [b] := by
  rw [List.suffix_concat_iff, List.suffix_concat_iff]
  refine or_congr_right (exists_congr fun v => and_congr_right fun huv => ?_)
  exact ⟨fun h => h.trans (take_longestBorder_suffix pattern w),
    suffix_take_longestBorder ((List.prefix_append v [b]).trans (huv ▸ hu))⟩

/-- One step of the automaton. -/
theorem matcherNext_longestBorder (pattern w : List Bool) (b : Bool) :
    matcherNext pattern (longestBorder pattern w) b = longestBorder pattern (w ++ [b]) := by
  rw [matcherNext_eq_longestBorder, longestBorder]
  simp only [suffix_concat_longestBorder_iff (List.take_prefix _ pattern)]
  rfl

theorem longestBorder_eq_length_iff (pattern w : List Bool) :
    longestBorder pattern w = pattern.length ↔ pattern <:+ w := by
  constructor
  · intro h
    simpa [h] using take_longestBorder_suffix pattern w
  · intro h
    exact Nat.findGreatest_eq (P := fun j => pattern.take j <:+ w) (by simpa using h)

theorem longestBorder_nil (pattern : List Bool) : longestBorder pattern [] = 0 := by
  have h := take_longestBorder_suffix pattern []
  have hle : longestBorder pattern [] ≤ pattern.length := Nat.findGreatest_le _
  rw [List.suffix_nil, List.take_eq_nil_iff] at h
  rcases h with h | rfl
  · exact h
  · simpa using hle

/-- After the input w, the automaton reports the windows that the modules to come complete. -/
theorem occurrences_add_matcherCount {pattern : List Bool} (hpattern : pattern ≠ []) (w ys : List Bool) :
    occurrences pattern w + matcherCount pattern (longestBorder pattern w) ys = occurrences pattern (w ++ ys) := by
  induction ys generalizing w with
  | nil => simp [matcherCount]
  | cons b ys ih =>
    have hrest := ih (w ++ [b])
    rw [occurrences_concat hpattern, List.append_assoc, List.singleton_append] at hrest
    rw [matcherCount, matcherNext_longestBorder, ← hrest]
    simp only [longestBorder_eq_length_iff]
    omega

theorem matcherCount_eq_occurrences {pattern : List Bool} (hpattern : pattern ≠ []) (ys : List Bool) :
    matcherCount pattern 0 ys = occurrences pattern ys := by
  simpa [longestBorder_nil, occurrences] using occurrences_add_matcherCount hpattern [] ys

/-- Settles O36: the automaton's state is the `longestBorder` of the input, for any pattern, and it is the whole pattern at the end of
each window. -/
theorem matcherCountsExactly : Obligations.MatcherCountsExactly := fun line =>
  ⟨matcherCount_eq_occurrences (by decide) line, matcherCount_eq_occurrences (by decide) line⟩

end Sys2Proof.Machine
end

section
/-! Rule 4 by the source's procedure, and the bounds of the four rules (spec 43_penalty_scorer.md R205, R206). -/

namespace Sys2Proof.Machine

/-- From a value a ≥ 0, enough fuel subtracts 5·n until the value is negative. -/
theorem subtractionSteps_eq {n : Nat} (hn : 0 < n) (fuel a steps : Nat) (hfuel : a / (5 * n) < fuel) :
    subtractionSteps n fuel a steps = steps + a / (5 * n) + 1 := by
  induction fuel generalizing a steps with
  | zero => exact absurd hfuel (Nat.not_lt_zero _)
  | succ fuel ih =>
    rw [subtractionSteps, if_pos (Int.natCast_nonneg a)]
    rcases Nat.lt_or_ge a (5 * n) with hlt | hge
    · have hneg : ¬ 0 ≤ (a : Int) - 5 * n := by omega
      rw [Nat.div_eq_of_lt hlt]
      cases fuel with
      | zero => rfl
      | succ fuel => rw [subtractionSteps, if_neg hneg, Nat.add_zero]
    · have hdiv : a / (5 * n) = (a - 5 * n) / (5 * n) + 1 := Nat.div_eq_sub_div (by omega) hge
      have hcast : (a : Int) - 5 * n = (a - 5 * n : Nat) := by omega
      rw [hcast, ih _ _ (by omega), hdiv]
      omega

theorem balancePenalty_full {n : Nat} (hn : 0 < n) : balancePenalty n n = 100 := by
  rw [balancePenalty, Nat.mul_div_cancel _ hn]
  rfl

theorem balancePenalty_zero (n : Nat) : balancePenalty 0 n = 90 := by
  rw [balancePenalty, Nat.mul_zero, Nat.zero_div]
  rfl

/-- The procedure takes k + 1 steps for k = floor(20·d/n), and corrects them down to k exactly when k ≥ 10. -/
theorem balanceProcedure_eq {d n : Nat} (hn : 0 < n) (hd : d ≤ n) : balanceProcedure d n = balancePenalty d n := by
  have hk : 100 * d / (5 * n) = 20 * d / n := by
    rw [show 100 * d = 5 * (20 * d) by omega, Nat.mul_div_mul_left _ _ (by decide)]
  have hmost : 20 * d / n ≤ 20 := Nat.div_le_of_le_mul (by omega)
  have hsteps := subtractionSteps_eq hn 22 (100 * d) 0 (by omega)
  rw [hk] at hsteps
  push_cast at hsteps
  simp only [balanceProcedure, balancePenalty, hsteps]
  generalize 20 * d / n = k at hmost ⊢
  split_ifs <;> omega

/-- Settles O37: both forms are functions of k = floor(20·d/n), which is at most 20. -/
theorem balanceProcedureEqualsClosedForm : Obligations.BalanceProcedureEqualsClosedForm := fun _ n hn hd =>
  ⟨balanceProcedure_eq hn hd, balancePenalty_le hd, balancePenalty_full hn, balancePenalty_zero n⟩

/-- The four bounds of a legal side add up to less than 2^32 (R206). -/
theorem penaltyTotal_le {p : List (List Bool)} {ver : Nat} (hver : ver ∈ [1, 2, 3, 4]) (hp : p.length = sideLength ver)
    (hrow : ∀ row ∈ p, row.length = sideLength ver) : penaltyTotal p (sideLength ver) ≤ 71218 := by
  obtain ⟨h1, h2, h3, h4, -⟩ := penalties_le hver hp hrow
  rw [penaltyTotal]
  omega

/-- Settles O38: the bounds of each rule on a square picture, at the side of the version. -/
theorem penaltiesStayInBounds : Obligations.PenaltiesStayInBounds := by
  intro ver p hver hp hrow
  obtain ⟨-, -, -, hbalance, -⟩ := penalties_le hver hp hrow
  have htotal := penaltyTotal_le hver hp hrow
  refine ⟨penaltyRuns_le hp hrow, ?_, penaltyFinder_le hp hrow, hbalance, htotal, ?_⟩
  · rw [sq]
    exact penaltyBlocks_le p _
  · rw [BitVec.toNat_ofNat, Nat.mod_eq_of_lt (by omega), penaltyTotal]

end Sys2Proof.Machine
end

section
/-! The four rules over the colours of a grid, cell by cell (spec 43_penalty_scorer.md R201 to R205). -/

namespace Sys2Proof.Machine

/-! ### Counts over the cells of a square -/

theorem countP_range_eq_card (P : Nat → Bool) (n : Nat) :
    (List.range n).countP P = ((Finset.range n).filter fun i => P i = true).card := by
  rw [← Nat.count_eq_card_filter_range, Nat.count]
  simp only [Bool.decide_eq_true]

/-- A count row by row is the number of cells. -/
theorem sum_countP_range_eq_card (P : Nat → Nat → Bool) (n : Nat) :
    ((List.range n).map fun r => (List.range n).countP (P r)).sum =
      ((Finset.range n ×ˢ Finset.range n).filter fun x => P x.1 x.2 = true).card := by
  simp only [countP_range_eq_card, Finset.card_filter, Finset.sum_product]
  rfl

/-! ### Rules 1, 2 and 4 -/

/-- Settles O56: the lines of the picture are its rows and its columns, and each line's points are those of O35. -/
theorem runPenaltySumsRowsAndColumns : Obligations.RunPenaltySumsRowsAndColumns := by
  intro m side dark p points
  have hpoints : runPenalty = points := funext runPenaltyIsSumOverMaximalRuns
  rw [penaltyRuns, hpoints]
  exact sum_gridLines_pictureOf points dark side

theorem blockAt_pictureOf (f : Nat → Nat → Bool) {side r c : Nat} (hr : r < side - 1) (hc : c < side - 1) :
    blockAt (pictureOf f side) r c = true ↔ f r c = f r (c + 1) ∧ f r c = f (r + 1) c ∧ f r c = f (r + 1) (c + 1) := by
  have hcell : ∀ i j, i ≤ r + 1 → j ≤ c + 1 → darkAt (pictureOf f side) i j = f i j := fun i j hi hj =>
    darkAt_pictureOf f side i j (by omega) (by omega)
  simp [blockAt, hcell, and_assoc]

/-- Settles O57: the windows are counted row by row, and inside the picture a window holds the colours of its cells. -/
theorem blockPenaltyCountsWindows : Obligations.BlockPenaltyCountsWindows := by
  intro m side dark p
  rw [penaltyBlocks, sum_countP_range_eq_card]
  congr 2
  refine Finset.filter_congr fun x hx => ?_
  obtain ⟨hr, hc⟩ := Finset.mem_product.mp hx
  exact blockAt_pictureOf dark (Finset.mem_range.mp hr) (Finset.mem_range.mp hc)

theorem darkCells_pictureOf (f : Nat → Nat → Bool) (side : Nat) :
    darkCells (pictureOf f side) = ((Finset.range side ×ˢ Finset.range side).filter fun x => f x.1 x.2 = true).card := by
  rw [← sum_countP_range_eq_card]
  simp [darkCells, pictureOf, Function.comp_def, List.count, List.countP_map]

/-- Settles O59: the dark cells are counted row by row, and rule 4 is computed by its closed form. -/
theorem balancePenaltyCountsDarkCells : Obligations.BalancePenaltyCountsDarkCells := by
  intro m side p d
  have hdark : darkCells p = d := by
    refine (darkCells_pictureOf _ side).trans ?_
    simp only [decide_eq_true_eq, d]
  refine ⟨hdark, ?_⟩
  rw [penaltyBalance, hdark, balancePenalty]

/-! ### Rule 3 -/

/-- The window count by positions: a pattern of n + 1 modules fits a line at all but its last n modules. -/
theorem occurrences_eq_count {pattern : List Bool} {n : Nat} (hpattern : pattern.length = n + 1) (line : List Bool) :
    occurrences pattern line = Nat.count (fun i => (line.drop i).take (n + 1) = pattern) (line.length - n) := by
  induction line with
  | nil => simp [occurrences]
  | cons y ys ih =>
    rw [occurrences, ih, hpattern]
    rcases Nat.lt_or_ge ys.length n with hshort | hlong
    · have hwindow : (y :: ys).take (n + 1) ≠ pattern := fun h => by
        have := congrArg List.length h
        simp only [List.length_take, List.length_cons] at this
        omega
      rw [if_neg hwindow, List.length_cons, show ys.length - n = 0 by omega, show ys.length + 1 - n = 0 by omega]
      simp
    · rw [List.length_cons, Nat.sub_add_comm hlong, Nat.count_succ', Nat.add_comm]
      simp only [List.drop_succ_cons, List.drop_zero]

theorem occurrences_padLine {pattern : List Bool} (hpattern : pattern.length = 11) {line : List Bool} {side : Nat}
    (hline : line.length = side) :
    occurrences pattern (padLine line) =
      ((Finset.range (side - 8)).filter fun i => ((padLine line).drop i).take 11 = pattern).card := by
  have hlength : (padLine line).length - 10 = side - 8 := by simp [padLine, hline]
  rw [occurrences_eq_count hpattern, hlength, Nat.count_eq_card_filter_range]

/-- Settles O58: every line has S modules, so that the padded one has S - 8 positions for a window. -/
theorem finderPenaltyCountsWindows : Obligations.FinderPenaltyCountsWindows := by
  intro m side dark p padded occ both
  have hboth : ∀ f : Nat → Bool, finderMatches ((List.range side).map f) = both ((List.range side).map f) := fun f => by
    have hline : ((List.range side).map f).length = side := by simp
    rw [finderMatches, occurrences_padLine rfl hline, occurrences_padLine rfl hline]
    rfl
  rw [penaltyFinder]
  refine congrArg (40 * ·) ((sum_gridLines_pictureOf finderMatches dark side).trans ?_)
  simp only [hboth]

end Sys2Proof.Machine
end

section
/-! The best-mask tracker, and what SCORE writes (spec 43_penalty_scorer.md R200, R207, R208). -/

namespace Sys2Proof.Machine

/-! ### One candidate -/

/-- The tracker takes a candidate: its mask id is 0 to 7, and no candidate is held, or the score is lower, or equal with a lower mask
id (R207). -/
def TakesCandidate (mask : Nat) (score : Word) (s : State) : Prop :=
  mask ≤ 7 ∧ (s.bestValid = false ∨ score < s.bestScore ∨ (score = s.bestScore ∧ mask < s.bestMaskId.toNat))

theorem takesCandidate_iff (mask : Nat) (score : Word) (s : State) :
    TakesCandidate mask score s ↔ (mask ≤ 7 && beatsBest mask score s) = true := by
  simp [TakesCandidate, beatsBest, or_assoc]

theorem updateBest_of_takes {mask : Nat} {score : Word} {s : State} (h : TakesCandidate mask score s) :
    updateBest mask score s = recordBest score (BitVec.ofNat 3 mask) s :=
  if_pos ((takesCandidate_iff mask score s).mp h)

theorem updateBest_of_not_takes {mask : Nat} {score : Word} {s : State} (h : ¬ TakesCandidate mask score s) :
    updateBest mask score s = s :=
  if_neg (mt (takesCandidate_iff mask score s).mpr h)

/-! ### A sequence of candidates -/

/-- What the tracker holds after the candidates `seen`: nothing while none of them has a mask id of 0 to 7, and else one of them with
the lowest id among those of least score. -/
def TracksBest (seen : List (Nat × Word)) (s : State) : Prop :=
  (s.bestValid = false ∧ s.bestScore = 0 ∧ s.bestMaskId = 0 ∧ ∀ x ∈ seen, 7 < x.1) ∨
  (s.bestValid = true ∧ (s.bestMaskId.toNat, s.bestScore) ∈ seen ∧
    ∀ x ∈ seen, x.1 ≤ 7 → s.bestScore < x.2 ∨ (s.bestScore = x.2 ∧ s.bestMaskId.toNat ≤ x.1))

/-- A candidate that the tracker takes beats every candidate before it. -/
theorem tracksBest_of_takes {seen : List (Nat × Word)} {s : State} (h : TracksBest seen s) {x : Nat × Word}
    (htakes : TakesCandidate x.1 x.2 s) : TracksBest (seen ++ [x]) (recordBest x.2 (BitVec.ofNat 3 x.1) s) := by
  obtain ⟨hmask, hbeats⟩ := htakes
  have hid : (BitVec.ofNat 3 x.1).toNat = x.1 := Nat.mod_eq_of_lt (by omega)
  refine .inr ⟨rfl, ?_, ?_⟩
  · simp [hid]
  · simp only [recordBest_bestScore, recordBest_bestMaskId, hid]
    intro y hy hy7
    rcases List.mem_append.mp hy with hold | hnew
    · rcases h with ⟨-, -, -, hnone⟩ | ⟨hvalid, -, hleast⟩
      · exact absurd (hnone y hold) (by omega)
      · have hheld := hleast y hold hy7
        simp only [hvalid, Bool.true_eq_false, false_or] at hbeats
        bv_omega
    · obtain rfl := List.mem_singleton.mp hnew
      exact .inr ⟨rfl, Nat.le_refl _⟩

/-- A candidate that the tracker does not take has no mask id of 0 to 7, or is no better than the one held. -/
theorem tracksBest_of_not_takes {seen : List (Nat × Word)} {s : State} (h : TracksBest seen s) {x : Nat × Word}
    (htakes : ¬ TakesCandidate x.1 x.2 s) : TracksBest (seen ++ [x]) s := by
  rcases h with ⟨hvalid, hscore, hid, hnone⟩ | ⟨hvalid, hmem, hleast⟩
  · refine .inl ⟨hvalid, hscore, hid, fun y hy => ?_⟩
    rcases List.mem_append.mp hy with hold | hnew
    · exact hnone y hold
    · obtain rfl := List.mem_singleton.mp hnew
      exact Nat.lt_of_not_le fun hmask => htakes ⟨hmask, .inl hvalid⟩
  · refine .inr ⟨hvalid, List.mem_append_left _ hmem, fun y hy hy7 => ?_⟩
    rcases List.mem_append.mp hy with hold | hnew
    · exact hleast y hold hy7
    · obtain rfl := List.mem_singleton.mp hnew
      have hbeaten : ¬ (y.2 < s.bestScore ∨ (y.2 = s.bestScore ∧ y.1 < s.bestMaskId.toNat)) :=
        fun hbeats => htakes ⟨hy7, .inr hbeats⟩
      bv_omega

theorem tracksBest_updateBest {seen : List (Nat × Word)} {s : State} (h : TracksBest seen s) (x : Nat × Word) :
    TracksBest (seen ++ [x]) (updateBest x.1 x.2 s) := by
  by_cases htakes : TakesCandidate x.1 x.2 s
  · rw [updateBest_of_takes htakes]
    exact tracksBest_of_takes h htakes
  · rw [updateBest_of_not_takes htakes]
    exact tracksBest_of_not_takes h htakes

theorem tracksBest_foldl {seen : List (Nat × Word)} {s : State} (h : TracksBest seen s) (candidates : List (Nat × Word)) :
    TracksBest (seen ++ candidates) (candidates.foldl (fun u x => updateBest x.1 x.2 u) s) := by
  induction candidates generalizing seen s with
  | nil => simpa using h
  | cons x xs ih => simpa using ih (tracksBest_updateBest h x)

/-- Settles O39: the cleared tracker tracks the empty list, and each candidate keeps `TracksBest`. -/
theorem trackerHoldsLowestMaskOfLeastTotal : Obligations.TrackerHoldsLowestMaskOfLeastTotal := by
  intro candidates s t
  have hclear : TracksBest [] (clearBest s) := .inl ⟨rfl, rfl, rfl, by simp⟩
  rcases tracksBest_foldl hclear candidates with ⟨hvalid, hscore, hid, hnone⟩ | ⟨hvalid, hmem, hleast⟩
  · refine ⟨fun ⟨x, hx, hmask⟩ => ?_, fun _ => ⟨hvalid, hscore, hid⟩⟩
    exact absurd (hnone x hx) (Nat.not_lt.mpr hmask)
  · refine ⟨fun _ => ⟨hvalid, hmem, hleast⟩, fun hall => ?_⟩
    exact absurd (hall _ hmem) (Nat.not_lt.mpr (Nat.le_of_lt_succ t.bestMaskId.isLt))

/-! ### SCORE -/

theorem complete_unassigned_eq (s : State) :
    complete .unassigned s =
      { s with err := .unassigned, stickyErr := true, pending := none, walker := none, scorer := none } := by
  simp [complete]

/-- Settles O34: one UNASSIGNED cell fails the check (`exec_score_unassigned`), and the error touches STATUS only. -/
theorem scoreRefusesUnfinishedGrid : Obligations.ScoreRefusesUnfinishedGrid := by
  intro ver mask r c s hver hr hc hcell
  rw [exec_score_unassigned hver hr hc hcell, complete_unassigned_eq]

theorem exec_score {ver : Nat} {s : State} (hver : ver ∈ [1, 2, 3, 4])
    (hfinished : ∀ r c, r < sideLength ver → c < sideLength ver → cellAt s.mem r c ≠ .unassigned) (mask : Nat) :
    exec (.score ver mask) s = .next (complete .ok
      (scorePicture (pictureOf (fun r c => decide (cellAt s.mem r c = .dark)) (sideLength ver)) (sideLength ver) mask s)) := by
  have hcorner : cornerFinished (corner s.mem (sideLength ver)) = true :=
    (cornerFinished_iff _ _).mpr fun r hr c hc => hfinished r c hr hc
  refine (execScore_eq ver mask s).trans (congrArg Host.Outcome.next ?_)
  rw [if_neg (not_not_intro hver), if_neg (by simp [hcorner]), darkRows_corner]

/-- The six results of a picture, beside the tracker that SCORE finds. -/
def scoreResults (p : List (List Bool)) (side : Nat) (s : State) : State :=
  recordScore (penaltyRuns p side) (penaltyBlocks p side) (penaltyFinder p side) (penaltyBalance p side) (darkCells p) s

theorem scorePicture_of_takes {p : List (List Bool)} {side mask : Nat} {s : State}
    (h : TakesCandidate mask (BitVec.ofNat 32 (penaltyTotal p side)) s) :
    scorePicture p side mask s =
      recordBest (BitVec.ofNat 32 (penaltyTotal p side)) (BitVec.ofNat 3 mask) (scoreResults p side s) :=
  updateBest_of_takes (s := scoreResults p side s) h

theorem scorePicture_of_not_takes {p : List (List Bool)} {side mask : Nat} {s : State}
    (h : ¬ TakesCandidate mask (BitVec.ofNat 32 (penaltyTotal p side)) s) :
    scorePicture p side mask s = scoreResults p side s :=
  updateBest_of_not_takes (s := scoreResults p side s) h

/-- Settles O33: the obligation's `better` is `TakesCandidate` of the total, and in either case the next state is a record of the
results over the old state. -/
theorem scoreWritesResultsAndTracker : Obligations.ScoreWritesResultsAndTracker := by
  intro ver mask s hver hfinished side p total better
  have hexec : exec (.score ver mask) s = .next (complete .ok (scorePicture p side mask s)) := exec_score hver hfinished mask
  by_cases hbetter : better
  · rw [scorePicture_of_takes hbetter, complete_ok_eq] at hexec
    exact ⟨_, hexec, rfl, rfl, rfl, rfl, rfl, rfl, fun _ => ⟨rfl, rfl, rfl⟩, fun h => absurd hbetter h, rfl⟩
  · rw [scorePicture_of_not_takes hbetter, complete_ok_eq] at hexec
    exact ⟨_, hexec, rfl, rfl, rfl, rfl, rfl, rfl, fun h => absurd h hbetter, fun _ => ⟨rfl, rfl, rfl⟩, rfl⟩

end Sys2Proof.Machine
end

section
/-! SCORE and PLACE read nothing but their listed inputs (spec 43_penalty_scorer.md R209). -/

namespace Sys2Proof.Machine

/-! ### Two grids that agree on the corner -/

section
variable {m m' : Memory} {side : Nat} (hcells : ∀ r c, r < side → c < side → cellAt m r c = cellAt m' r c)
include hcells

theorem corner_congr : corner m side = corner m' side :=
  List.map_congr_left fun r hr => List.map_congr_left fun c hc => hcells r c (List.mem_range.mp hr) (List.mem_range.mp hc)

theorem freeModules_walk_congr {ps : List (Nat × Nat)} (hps : ps ⊆ walk side) : freeModules m ps = freeModules m' ps :=
  freeModules_congr ps fun pos hpos => hcells pos.1 pos.2 (lt_side_of_mem_walk (hps hpos)).1 (lt_side_of_mem_walk (hps hpos)).2

end

/-! ### PLACE -/

/-- A data module's colour depends on the first l codewords only. -/
theorem paintColour_congr {entries : Nat} {cw cw' : Vector Byte entries} {l : Nat}
    (hcw : ∀ i, i < l → bufferGet cw i = bufferGet cw' i) (mask n r c : Nat) : paintColour cw mask l n r c = paintColour cw' mask l n r c := by
  have hbit : (decide (n < 8 * l) && streamBit cw n) = (decide (n < 8 * l) && streamBit cw' n) := by
    by_cases hn : n < 8 * l
    · rw [streamBit, streamBit, hcw (n / 8) (by omega)]
    · simp [hn]
  rw [paintColour, paintColour, hbit]

theorem cellAt_placeAll_of_not_mem_walk {entries : Nat} (cw : Vector Byte entries) (mask l : Nat) (m : Memory) {side r c : Nat}
    (hside : side ≤ 33) (hc : c < 33) (hoff : (r, c) ∉ walk side) :
    cellAt (placeAll Config.hw cw mask l m side).mem r c = cellAt m r c := by
  refine cellAt_congr (read_placeAll_other cw mask l m hside fun pos hpos _ haddr => hoff ?_)
  have hcolumn := (lt_side_of_mem_walk hpos).2
  obtain ⟨rfl, rfl⟩ := cellAddr_inj hc (by omega) haddr
  exact hpos

section
variable {entries : Nat} {cw cw' : Vector Byte entries} {l : Nat} {m m' : Memory} {side : Nat} (hside : side ≤ 33)
  (hcells : ∀ r c, r < side → c < side → cellAt m r c = cellAt m' r c)
include hside hcells

theorem placeAll_counters_congr (mask : Nat) :
    (placeAll Config.hw cw mask l m side).used = (placeAll Config.hw cw' mask l m' side).used ∧
    (placeAll Config.hw cw mask l m side).defaulted = (placeAll Config.hw cw' mask l m' side).defaulted := by
  obtain ⟨hused, hdefaulted⟩ := placeAll_counted cw mask l m hside
  obtain ⟨hused', hdefaulted'⟩ := placeAll_counted cw' mask l m' hside
  rw [hused, hdefaulted, hused', hdefaulted', freeModules_walk_congr hcells (List.Subset.refl _)]
  exact ⟨rfl, rfl⟩

theorem cellAt_placeAll_congr (hcw : ∀ i, i < l → bufferGet cw i = bufferGet cw' i) (mask : Nat) {r c : Nat} (hr : r < side)
    (hc : c < side) :
    cellAt (placeAll Config.hw cw mask l m side).mem r c = cellAt (placeAll Config.hw cw' mask l m' side).mem r c := by
  by_cases hmem : (r, c) ∈ walk side
  · obtain ⟨j, hj, hpos⟩ := List.getElem_of_mem hmem
    have hcell := cellAt_placeAll cw mask l m hside hj
    have hcell' := cellAt_placeAll cw' mask l m' hside hj
    have hfree := freeModules_walk_congr hcells (List.take_subset j (walk side))
    rw [hpos] at hcell hcell'
    rw [hcell, hcell', hcells r c hr hc, hfree, paintColour_congr hcw]
  · rw [cellAt_placeAll_of_not_mem_walk cw mask l m hside (by omega) hmem,
      cellAt_placeAll_of_not_mem_walk cw' mask l m' hside (by omega) hmem, hcells r c hr hc]

end

/-! ### SCORE -/

/-- The trackers of two states hold the same. -/
def SameTracker (s s' : State) : Prop :=
  s.bestScore = s'.bestScore ∧ s.bestValid = s'.bestValid ∧ s.bestMaskId = s'.bestMaskId

/-- The six result registers of SCORE hold the same in two states. -/
def SameResults (s s' : State) : Prop :=
  s.p1Run = s'.p1Run ∧ s.p2Block = s'.p2Block ∧ s.p3Finder = s'.p3Finder ∧ s.p4Balance = s'.p4Balance ∧ s.total = s'.total ∧
    s.darkCount = s'.darkCount

theorem takesCandidate_congr {s s' : State} (h : SameTracker s s') (mask : Nat) (score : Word) :
    TakesCandidate mask score s ↔ TakesCandidate mask score s' := by
  obtain ⟨hscore, hvalid, hid⟩ := h
  rw [TakesCandidate, TakesCandidate, hscore, hvalid, hid]

theorem scorePicture_congr {s s' : State} (h : SameTracker s s') (p : List (List Bool)) (side mask : Nat) :
    SameTracker (scorePicture p side mask s) (scorePicture p side mask s') ∧
    SameResults (scorePicture p side mask s) (scorePicture p side mask s') := by
  by_cases htakes : TakesCandidate mask (BitVec.ofNat 32 (penaltyTotal p side)) s
  · rw [scorePicture_of_takes htakes, scorePicture_of_takes ((takesCandidate_congr h _ _).mp htakes)]
    exact ⟨⟨rfl, rfl, rfl⟩, rfl, rfl, rfl, rfl, rfl, rfl⟩
  · rw [scorePicture_of_not_takes htakes, scorePicture_of_not_takes (mt (takesCandidate_congr h _ _).mpr htakes)]
    exact ⟨h, rfl, rfl, rfl, rfl, rfl, rfl⟩

/-! ### The commands -/

section
variable {s s' t t' : State} {ver mask l : Nat}
  (hcells : ∀ r c, r < sideLength ver → c < sideLength ver → cellAt s.mem r c = cellAt s'.mem r c)
include hcells

theorem exec_score_congr (htracker : SameTracker s s') (h : exec (.score ver mask) s = .next t)
    (h' : exec (.score ver mask) s' = .next t') :
    t.err = t'.err ∧ SameTracker t t' ∧ (t.err = .ok → SameResults t t') := by
  obtain rfl := Host.Outcome.next.inj ((execScore_eq ver mask s).symm.trans h)
  obtain rfl := Host.Outcome.next.inj ((execScore_eq ver mask s').symm.trans h')
  rw [← corner_congr hcells]
  split_ifs
  · exact ⟨rfl, htracker, fun herr => nomatch herr⟩
  · obtain ⟨hbest, hresults⟩ := scorePicture_congr htracker (darkRows (corner s.mem (sideLength ver))) (sideLength ver) mask
    exact ⟨rfl, hbest, fun _ => hresults⟩
  · exact ⟨rfl, htracker, fun herr => nomatch herr⟩

theorem exec_place_congr (hcw : ∀ i, i < l → bufferGet s.cw i = bufferGet s'.cw i)
    (h : exec (.place ver mask l) s = .next t) (h' : exec (.place ver mask l) s' = .next t') :
    t.err = t'.err ∧
    (∀ r c, r < sideLength ver → c < sideLength ver → cellAt t.mem r c = cellAt t'.mem r c) ∧
    (t.err = .ok → t.placeConsumed = t'.placeConsumed ∧ t.placeDefaulted = t'.placeDefaulted) := by
  obtain rfl := Host.Outcome.next.inj ((execPlace_eq ver mask l s).symm.trans h)
  obtain rfl := Host.Outcome.next.inj ((execPlace_eq ver mask l s').symm.trans h')
  split_ifs with hver hl
  · exact ⟨rfl, hcells, fun herr => nomatch herr⟩
  · have hside := (sideLength_bounds hver).2
    obtain ⟨hused, hdefaulted⟩ := placeAll_counters_congr (cw := s.cw) (cw' := s'.cw) (l := l) hside hcells mask
    exact ⟨rfl, fun r c hr hc => cellAt_placeAll_congr hside hcells hcw mask hr hc,
      fun _ => ⟨congrArg (BitVec.ofNat 32) hused, congrArg (BitVec.ofNat 32) hdefaulted⟩⟩
  · exact ⟨rfl, hcells, fun herr => nomatch herr⟩

end

/-- Settles O40: each command is one case of its checks on both states, which read the same corner (`exec_score_congr`,
`exec_place_congr`). -/
theorem resultsDependOnlyOnTheirInputs : Obligations.ResultsDependOnlyOnTheirInputs := by
  intro s s' ver mask l hcells
  refine ⟨fun hscore hvalid hid t t' h h' => ?_, fun hcw t t' h h' => exec_place_congr hcells hcw h h'⟩
  obtain ⟨herr, ⟨hscore', hvalid', hid'⟩, hresults⟩ := exec_score_congr hcells ⟨hscore, hvalid, hid⟩ h h'
  exact ⟨herr, hscore', hvalid', hid', hresults⟩

end Sys2Proof.Machine
end

section
/-! How a command ends, and the engine's turn without one (spec 60_exceptions.md R241, R243, R253, 70_reset_and_hazards.md R270). -/

namespace Sys2Proof.Machine

/-! ### The first failing check -/

theorem cornerFinished_eq_false_iff (m : Memory) (side : Nat) :
    cornerFinished (corner m side) = false ↔ ∃ r < side, ∃ c < side, cellAt m r c = .unassigned := by
  simp [← Bool.not_eq_true, cornerFinished_iff]

/-- A command of two checks, the second perhaps written in another form (q for q'), and an update that turns s into u. -/
theorem exists_complete_of_checks {p q q' : Prop} [Decidable p] [Decidable q] [Decidable q'] (hq : q ↔ q') (c d : ErrCode) (s u : State) :
    ∃ v, Host.Outcome.next (φ := Fault) (ρ := Refusal)
          (if p then complete c s else if q then complete d s else complete .ok u) =
        .next (complete (if p then c else if q' then d else .ok) v) ∧
      ((if p then c else if q' then d else .ok) ≠ .ok → v = s) := by
  by_cases hp : p
  · exact ⟨s, by simp [hp], fun _ => rfl⟩
  · by_cases hq' : q'
    · exact ⟨s, by simp [hp, hq, hq'], fun _ => rfl⟩
    · exact ⟨u, by simp [hp, hq, hq'], by simp [hp, hq']⟩

/-- A command completes with the code of its first failing check, and it completes on the state it found when a check fails. -/
theorem exec_eq_complete_firstFailure (i : Instr) (s : State) :
    ∃ u, exec i s = .next (complete (firstFailure s i) u) ∧ (firstFailure s i ≠ .ok → u = s) := by
  cases i with
  | nop => exact ⟨s, exec_nop s, fun _ => rfl⟩
  | clrg => exact ⟨clearGrid s, exec_clrg s, fun h => absurd rfl h⟩
  | clrbest => exact ⟨clearBest s, exec_clrbest s, fun h => absurd rfl h⟩
  | rsenc k e =>
    rw [exec, execRsenc_eq]
    exact exists_complete_of_checks Iff.rfl .eccLen .range s _
  | place ver mask l =>
    rw [exec, execPlace_eq]
    exact exists_complete_of_checks Iff.rfl .version .range s _
  | score ver mask =>
    rw [exec, execScore_eq]
    exact exists_complete_of_checks (cornerFinished_eq_false_iff s.mem (sideLength ver)) .version .unassigned s _

/-- Settles O12: the turn executes the word on the state without the turn in its list, which no check reads. -/
theorem commandReportsFirstFailingCheck : Obligations.CommandReportsFirstFailingCheck := by
  intro s w hevent hclearing hpending
  rw [step_of_pending hevent hclearing hpending]
  cases hdecode : decode w with
  | ok i =>
    obtain ⟨u, hu, -⟩ := exec_eq_complete_firstFailure i (popEvent s)
    exact ⟨_, (executeWord_of_decode hdecode _).trans hu, rfl⟩
  | error reject => exact ⟨_, executeWord_of_not_decode (by simp [hdecode]) _, rfl⟩

/-! ### What an error changes -/

theorem complete_error_eq {code : ErrCode} (h : code ≠ .ok) (s : State) :
    complete code s = { s with err := code, stickyErr := true, pending := none, walker := none, scorer := none } := by
  simp [complete, h]

/-- A word that ends with an error completes on the very state it found. -/
theorem eq_complete_of_executeWord {w : Word} {s t : State} (h : executeWord w s = .next t) (herr : t.err ≠ .ok) :
    t = complete t.err s := by
  rcases executeWord_cases w with ⟨i, hi⟩ | hrejected
  · obtain ⟨u, hu, hkept⟩ := exec_eq_complete_firstFailure i s
    obtain rfl := Host.Outcome.next.inj ((h.symm.trans (hi s)).trans hu)
    obtain rfl := hkept herr
    rfl
  · obtain rfl := Host.Outcome.next.inj ((hrejected s).symm.trans h)
    rfl

/-- Settles O13: the state is the completion of the old one with the code (`eq_complete_of_executeWord`), which touches STATUS only. -/
theorem failingCommandChangesOnlyStatus : Obligations.FailingCommandChangesOnlyStatus :=
  fun s _ _ h herr => (eq_complete_of_executeWord h herr).trans (complete_error_eq herr s)

/-! ### The turn without a command -/

theorem step_of_engine {s : State} (h : nextEvent s = .engine) : step s = engineTurn (popEvent s) := by
  rw [step, h, move]

theorem busy_eq_false_iff (s : State) : busy s = false ↔ s.pending = none ∧ s.clearing = false := by
  simp [busy]

/-- Settles O60: an idle turn is `engineTurn_of_idle`; the end of the clear is `endClear`, whose memory lists nothing, as a legal state
lists nothing but cells (`read_of_not_cellAddr`). -/
theorem engineTurnWithoutCommand : Obligations.EngineTurnWithoutCommand := by
  intro s hevent
  rw [step_of_engine hevent]
  refine ⟨fun hidle => ?_, fun hclearing hpending => ⟨_, engineTurn_of_clearing hclearing, ?_, ?_, ?_, rfl⟩⟩
  · obtain ⟨hpending, hclearing⟩ := (busy_eq_false_iff s).mp hidle
    exact engineTurn_of_idle hclearing hpending
  · have hidle : busy (endClear (popEvent s)) = false := (busy_eq_false_iff _).mpr ⟨hpending, rfl⟩
    obtain ⟨hbit, -⟩ := statusOf_fields s.err s.ovr s.stickyErr false
    rw [statusWord_eq_statusOf, hidle]
    exact hbit
  · exact fun r c _ _ => cellAt_nil r c
  · exact fun a ha hinv => (read_of_not_cellAddr hinv ha).symm

end Sys2Proof.Machine
end

section
/-! Accesses while BUSY = 1 and the state after a reset (spec 70_reset_and_hazards.md R270, R271, R275, R276). -/

namespace Sys2Proof.Machine

/-! ### Accesses while BUSY = 1 -/

/-- Settles O48: the write is the next move, and `hostWrite_busy` says what it does. -/
theorem busyWriteIsDropped : Obligations.BusyWriteIsDropped := by
  intro s a v rest hbusy hevents
  rw [step_of_events_cons hevents, move]
  exact congrArg Host.Outcome.next (hostWrite_busy (s := { s with events := rest }) hbusy a v)

theorem mem_registerMap_of_locateWord {w : Nat} {name : RegName} (h : locateWord w = .register name) :
    (w, name) ∈ registerMap := by
  unfold locateWord at h
  split at h
  · next found hlookup =>
    obtain rfl := Location.register.inj h
    obtain ⟨before, after, hmap, -⟩ := List.lookup_eq_some_iff.mp hlookup
    simp [hmap]
  · split_ifs at h

/-- ID, CMD and STATUS are the registers below 0x00C. -/
theorem exactWhileBusy_of_mem_registerMap :
    ∀ x ∈ registerMap, 0x00C ≤ x.1 → exactWhileBusy (.register x.2) = false := by decide

theorem exactWhileBusy_locateWord {w : Nat} (hw : 0x00C ≤ w) (hmapped : locateWord w ≠ .unmapped) :
    exactWhileBusy (locateWord w) = false := by
  cases hloc : locateWord w with
  | register name => exact exactWhileBusy_of_mem_registerMap _ (mem_registerMap_of_locateWord hloc) hw
  | codeword i => rfl
  | cell r c => rfl
  | unmapped => exact absurd hloc hmapped

/-- Every location but those of R276 answers a free word while BUSY = 1. -/
theorem hostRead_busy {s : State} {a : Addr} (hbusy : busy s = true) (h : exactWhileBusy (locate a) = false) :
    hostRead a s = drawRead s := by
  simp [hostRead, hbusy, h]

/-- A location of R276 answers its word, which is `answerRead` written out as an update of the state. -/
theorem hostRead_of_locate_exact {s : State} {a : Addr} {loc : Location} (hloc : locate a = loc) (h : exactWhileBusy loc = true) :
    hostRead a s = { s with reads := locationWord s loc :: s.reads } := by
  subst hloc
  exact hostRead_exact h

/-- Settles O49: ID, CMD, STATUS and unmapped words are the exact locations (`hostRead_of_locate_exact`), every other location draws
(`hostRead_busy`). -/
theorem busyReads : Obligations.BusyReads := by
  intro s a hbusy
  refine ⟨fun h => hostRead_of_locate_exact (loc := .register .id) (congrArg locateWord h) rfl,
    fun h => hostRead_of_locate_exact (loc := .register .cmd) (congrArg locateWord h) rfl,
    fun h => hostRead_of_locate_exact (loc := .register .status) (congrArg locateWord h) rfl,
    fun h => hostRead_of_locate_exact h rfl, fun hle hmapped => ?_⟩
  exact hostRead_busy hbusy (exactWhileBusy_locateWord hle hmapped)

/-! ### Reset -/

theorem bufferGet_cwAfterReset (draw : Nat) {i : Nat} (h : i < 100) :
    bufferGet (cwAfterReset draw) i = Config.cwPowerUp draw i := by
  have hcap : i < Config.hw.cwCap := h
  rw [bufferGet, cwAfterReset, Vector.getElem?_mk, List.getElem?_toArray, List.getElem?_map, List.getElem?_range hcap]
  rfl

theorem bestMaskWord_resetState (s : State) : bestMaskWord (resetState s) = 0 :=
  show bestMaskWord State.reset = 0 by decide

/-- Settles O51: the step leaves `resetState`, whose fields are those of `State.reset` but for CW, drawn anew, and the model's own
bookkeeping; no cell is listed in its memory. -/
theorem resetLeavesTheListedState : Obligations.ResetLeavesTheListedState :=
  fun s _ hevents => ⟨_, step_of_events_cons hevents, rfl, statusWord_resetState _, rfl, rfl, rfl, rfl, rfl, rfl, rfl,
    bestMaskWord_resetState _, rfl, rfl, fun r c _ _ => cellAt_nil r c, fun _ hi => bufferGet_cwAfterReset s.draws hi,
    rfl, rfl, rfl⟩

end Sys2Proof.Machine
end
